-- ==== Sys2Proof/Word.lean ====
section
/-! DEFINITION. Words of the machine and the constants of 00_scope R5. -/

namespace Sys2Proof

/-- A byte (00_scope R7). -/
abbrev Byte := BitVec 8

/-- A host command word, `W[31:0]` (30_encoding R91). -/
abbrev HWord := BitVec 32

/-- A bus frame: bit 8 is DC, bits 7..0 the byte (30_encoding R105). -/
abbrev Frame := BitVec 9

/-- Bytes of one plane (00_scope R5). -/
abbrev planeBytes : Nat := 360

/-- Width in pixels (00_scope R5). -/
abbrev width : Nat := 72

/-- Height in pixels (00_scope R5). -/
abbrev height : Nat := 40

/-- Rows of one page (00_scope R5). -/
abbrev pageRows : Nat := 8

end Sys2Proof
end

