-- ==== Sys2Proof/Config.lean ====
section
/-! DEFINITION. The configuration record Cfg (00_scope R6), what the spec leaves to it, and the free values. -/

namespace Sys2Proof

/-- The construction strap START_MODE (R6, R36). -/
inductive StartMode
  | delayed
  | immediate
deriving DecidableEq, Repr, Inhabited

/-- BUS_BITORDER (R6, R193). -/
inductive BitOrder
  | msbFirst
  | lsbFirst
deriving DecidableEq, Repr, Inhabited

/-- BUS_CLKMODE (R6, R193). R193 describes mode 0 only.
PRESUMED (log 14, unsafe): in modes 2 and 3 SCK idles high. -/
inductive ClkMode
  | mode0
  | mode1
  | mode2
  | mode3
deriving DecidableEq, Repr, Inhabited

/-- A contrast-adjustment byte pair (R28, R108). -/
structure Pair where
  b0 : Byte
  b1 : Byte
deriving DecidableEq, Repr, Inhabited

/-- The three pairs CADJ[0], CADJ[1], CADJ[2] (R28). -/
structure Cadj where
  p0 : Pair
  p1 : Pair
  p2 : Pair
deriving DecidableEq, Repr, Inhabited

/-- CADJ[k] (R28). -/
def Cadj.get (c : Cadj) (k : Fin 3) : Pair :=
  match k with
  | 0 => c.p0
  | 1 => c.p1
  | 2 => c.p2

/-- One item of BRINGUP_SEQ (R194). -/
inductive BringItem
  /-- `res l`: drive RES to level l. -/
  | res (level : Bool)
  /-- `wait t`: let `now` advance by at least t microseconds. -/
  | wait (us : Nat)
  /-- `cmd b`: command byte b. -/
  | cmd (b : Byte)
deriving DecidableEq, Repr, Inhabited

/-- The configuration record (R6). CONTRAST_MAP is held as its table of 256 entries, so that the record is plain
data (log 8). The last five naturals and `tFineUs` are read by no rule of the machine (R6, R107, R170, R272). -/
structure Cfg where
  startMode : StartMode
  parkSeq : List Byte
  resumeSeq : List Byte
  cadjInit : Cadj
  contrastMap : List Cadj
  tPreUs : Nat
  tSubUs : Nat
  bringupSeq : List BringItem
  restoreSeq : List Byte
  txplanePrefix : List Byte
  cmdqMax : Nat
  bitOrder : BitOrder
  clkMode : ClkMode
  csActive : Bool
  resActive : Bool
  tFineUs : Nat
  jitterTolUs : Nat
  fRowclk : Nat
  rowsPerSubframe : Nat
  prechargeCycles : Nat
  marginRows : Nat
deriving DecidableEq, Repr

/-- ConfigOK (60_exceptions R221). A time base is present in every model state (`now`), so that clause needs no field. -/
def Cfg.ok (c : Cfg) : Bool :=
  decide (0 < c.tPreUs) && decide (0 < c.tSubUs) && decide (1 ≤ c.cmdqMax) && decide (c.cmdqMax ≤ 255)
    && decide (c.contrastMap.length = 256)

/-- How an agent's turn is taken (log 2): ONE atomic step, or its operation at once, which is all its atomic steps up to
its end or to the first `await`, with no other agent's step between them. -/
inductive Grain
  | atOnce
  | stepwise
deriving DecidableEq, Repr, Inhabited

/-- One turn (R9): which agent steps, at which grain, with which draw among steps whose order is open
(R69, D18, D28), or by how many microseconds TIMEBASE advances. -/
inductive Turn
  | host (g : Grain) (pick : Nat)
  | pump (g : Grain) (pick : Nat)
  | timebase (us : Nat)
deriving DecidableEq, Repr, Inhabited

namespace Config

/-! The free values: opaque constants, no value of which any proof can see. -/

/-- Free value (log 1): the n-th turn, where no schedule fixes it (R9, R238). -/
opaque freeTurn : Nat → Turn

/-- Free value (log 4): byte i of plane number p at construction (R49). Planes 0..4 are LA, LB, DP[0], DP[1], DP[2]. -/
opaque planeByte : Nat → Nat → Byte

/-! The protocol constants the source gives no value for (R6, R106, R203; log 6). -/

/-- PARK_SEQ. -/
opaque parkSeq : List Byte
/-- RESUME_SEQ. -/
opaque resumeSeq : List Byte
/-- CADJ_INIT. -/
opaque cadjInit : Cadj
/-- CONTRAST_MAP, any total function of the level (R213). -/
opaque contrastMap : Byte → Cadj
/-- T_PRE_US less one: ConfigOK asks that T_PRE_US be positive (R221). -/
opaque tPreLessOne : Nat
/-- T_SUB_US less one (R221). -/
opaque tSubLessOne : Nat
/-- BRINGUP_SEQ. -/
opaque bringupSeq : List BringItem
/-- RESTORE_SEQ. -/
opaque restoreSeq : List Byte
/-- T_FINE_US. -/
opaque tFineUs : Nat
/-- JITTER_TOL_US. -/
opaque jitterTolUs : Nat
/-- F_ROWCLK. -/
opaque fRowclk : Nat
/-- ROWS_PER_SUBFRAME. -/
opaque rowsPerSubframe : Nat
/-- PRECHARGE_CYCLES. -/
opaque prechargeCycles : Nat
/-- MARGIN_ROWS. -/
opaque marginRows : Nat

/-- A function of the level as the table Cfg holds (log 8). -/
def tabulate (f : Byte → Cadj) : List Cadj :=
  (List.range 256).map fun l => f (BitVec.ofNat 8 l)

/-- The configuration of the block that `State.reset` constructs (log 6, log 7): the constants without a value are
opaque; TXPLANE_PREFIX, CMDQ_MAX and the bus parameters are the spec's defaults (D11, D12, D16).
DESIGN CHOICE (log 6, unsafe): the strap is Delayed. -/
def installed : Cfg where
  startMode := .delayed
  parkSeq := parkSeq
  resumeSeq := resumeSeq
  cadjInit := cadjInit
  contrastMap := tabulate contrastMap
  tPreUs := tPreLessOne + 1
  tSubUs := tSubLessOne + 1
  bringupSeq := bringupSeq
  restoreSeq := restoreSeq
  txplanePrefix := []
  cmdqMax := 16
  bitOrder := .msbFirst
  clkMode := .mode0
  csActive := false
  resActive := false
  tFineUs := tFineUs
  jitterTolUs := jitterTolUs
  fRowclk := fRowclk
  rowsPerSubframe := rowsPerSubframe
  prechargeCycles := prechargeCycles
  marginRows := marginRows

/-- Constants of one subframe in the suggested shape of CONTRAST_MAP (45_contrast_lut R214). -/
structure Ramp where
  cb : Byte
  mul : Nat
  shr : Nat
  ofs : Nat
deriving DecidableEq, Repr

/-- One pair of the suggested shape: scale, shift, offset, saturate to a byte (R214). -/
def Ramp.pair (r : Ramp) (l : Byte) : Pair :=
  let v := ((l.toNat * r.mul) >>> r.shr) + r.ofs
  { b0 := r.cb, b1 := if v > 255 then 255#8 else BitVec.ofNat 8 v }

/-- CONTRAST_MAP in the suggested shape (R214). -/
def rampMap (r0 r1 r2 : Ramp) (l : Byte) : Cadj :=
  { p0 := r0.pair l, p1 := r1.pair l, p2 := r2.pair l }

/-- CONTRAST_MAP of the test configuration (R215). -/
def tc1Map : Byte → Cadj :=
  rampMap { cb := 0x81#8, mul := 1, shr := 2, ofs := 0 } { cb := 0x81#8, mul := 1, shr := 1, ofs := 0 }
    { cb := 0x81#8, mul := 1, shr := 0, ofs := 0 }

/-- The test configuration TC1 (R6, last column; R215): for test vectors only, no claim about the hardware.
F_ROWCLK, ROWS_PER_SUBFRAME, PRECHARGE_CYCLES and MARGIN_ROWS are "not used" there. -/
def tc1 : Cfg where
  startMode := .delayed
  parkSeq := [0xA8#8, 0x00#8, 0xD3#8, 0x34#8]
  resumeSeq := [0xD3#8, 0x2F#8, 0xA8#8, 0x38#8]
  cadjInit := tc1Map 127#8
  contrastMap := tabulate tc1Map
  tPreUs := 785
  tSubUs := 4709
  bringupSeq := [.res false, .wait 10, .res true, .wait 10, .cmd 0xAE#8, .cmd 0x8D#8, .cmd 0x14#8, .cmd 0xAF#8]
  restoreSeq := [0xA8#8, 0x27#8, 0xD3#8, 0x00#8]
  txplanePrefix := []
  cmdqMax := 16
  bitOrder := .msbFirst
  clkMode := .mode0
  csActive := false
  resActive := false
  tFineUs := 500
  jitterTolUs := 200
  fRowclk := 0
  rowsPerSubframe := 0
  prechargeCycles := 0
  marginRows := 0

end Config

end Sys2Proof
end

