-- ==== Sys2Proof/Syntax.lean ====
section
/-! DEFINITION. The operations of the block: one constructor for each row of spec/opcode_table.json. -/

namespace Sys2Proof

/-- The ten host operations, the fifteen pump micro-operations and the two bus primitives. -/
inductive Instr
  /-- FILL sh (R121). -/
  | fill (sh : BitVec 2)
  /-- PIXEL x, y, sh; the coordinates are the raw 12-bit fields (R94, R123). -/
  | pixel (x y : BitVec 12) (sh : BitVec 2)
  /-- SHOW (R143). -/
  | showSync
  /-- SHOWA (R145). -/
  | showAsync
  /-- CONTRAST lvl (R146). -/
  | contrast (lvl : Byte)
  /-- CONTRASTS lvl (R147). -/
  | contrastSync (lvl : Byte)
  /-- START (R141). -/
  | start
  /-- TEARDOWN (R148). -/
  | teardown
  /-- COMMAND n, bytes: n is the number of bytes (R150, R98). -/
  | command (bytes : List Byte)
  /-- RDSTAT (R151). -/
  | rdstat
  /-- IDLE, PH = 0 (R161). -/
  | idle
  /-- BRINGUP, PH = 1 (R162). -/
  | bringup
  /-- PARK, PH = 2 (R163). -/
  | park
  /-- WAITPRE, PH = 3 (R164). -/
  | waitpre
  /-- TXPLANE, PH = 4 (R165). -/
  | txplane
  /-- CADJ1, PH = 5 (R166). -/
  | cadj1
  /-- RESUME, PH = 6 (R167). -/
  | resume
  /-- CADJ2, PH = 7 (R168). -/
  | cadj2
  /-- MAINT, PH = 8 (R169). -/
  | maint
  /-- WAITSUB, PH = 9 (R170). -/
  | waitsub
  /-- NEXT, PH = 10 (R171). -/
  | next
  /-- BLANK, PH = 11 (R172). -/
  | blank
  /-- TXFINAL, PH = 12 (R173). -/
  | txfinal
  /-- SETSTOP, PH = 13 (R174). -/
  | setstop
  /-- HALT, PH = 14 (R175). -/
  | halt
  /-- TXC: one command byte on the bus (R191). -/
  | txc (b : Byte)
  /-- TXD: one display-memory byte on the bus (R192). -/
  | txd (b : Byte)
deriving DecidableEq, Repr

/-- The three layers of encodings (R90). -/
inductive Layer
  | host
  | phase
  | bus
deriving DecidableEq, Repr

/-- The layer an operation is encoded in (R90). -/
def Instr.layer : Instr → Layer
  | .fill _ | .pixel _ _ _ | .showSync | .showAsync | .contrast _ | .contrastSync _
  | .start | .teardown | .command _ | .rdstat => .host
  | .idle | .bringup | .park | .waitpre | .txplane | .cadj1 | .resume | .cadj2 | .maint
  | .waitsub | .next | .blank | .txfinal | .setstop | .halt => .phase
  | .txc _ | .txd _ => .bus

end Sys2Proof
end

