-- ==== Sys2Proof/WellFormed.lean ====
section
/-! DEFINITION. Which terms of `Instr` stand for an operation that has an encoding. -/

namespace Sys2Proof

/-- The longest byte list COMMAND's 8-bit field n can announce (R98). -/
abbrev maxCommandBytes : Nat := 255

/-- Every operand but COMMAND's is a bit field of its own width, whose every value is legal (R93, R94, R95).
COMMAND's n is `W[7:0]` (R98), so its byte list has at most 255 bytes. Whether n is 0 or above CMDQ_MAX is
no matter of the encoding: such a COMMAND decodes and is refused when executed (R98, R150). -/
def Instr.wf : Instr → Bool
  | .command bytes => decide (bytes.length ≤ maxCommandBytes)
  | .fill _ | .pixel _ _ _ | .showSync | .showAsync | .contrast _ | .contrastSync _
  | .start | .teardown | .rdstat
  | .idle | .bringup | .park | .waitpre | .txplane | .cadj1 | .resume | .cadj2 | .maint
  | .waitsub | .next | .blank | .txfinal | .setstop | .halt
  | .txc _ | .txd _ => true

end Sys2Proof
end

