-- ==== Sys2Proof/Decode.lean ====
section
/-! DEFINITION. Decoding and encoding of the three layers of 30_encoding: host command words (R91 to R102), pump phases
(R103) and bus frames (R105). -/

namespace Sys2Proof

/-! ## Pump phases -/

/-- The codes of PH (R103). -/
abbrev Ph.idle : BitVec 4 := 0#4
abbrev Ph.bringup : BitVec 4 := 1#4
abbrev Ph.park : BitVec 4 := 2#4
abbrev Ph.waitpre : BitVec 4 := 3#4
abbrev Ph.txplane : BitVec 4 := 4#4
abbrev Ph.cadj1 : BitVec 4 := 5#4
abbrev Ph.resume : BitVec 4 := 6#4
abbrev Ph.cadj2 : BitVec 4 := 7#4
abbrev Ph.maint : BitVec 4 := 8#4
abbrev Ph.waitsub : BitVec 4 := 9#4
abbrev Ph.next : BitVec 4 := 10#4
abbrev Ph.blank : BitVec 4 := 11#4
abbrev Ph.txfinal : BitVec 4 := 12#4
abbrev Ph.setstop : BitVec 4 := 13#4
abbrev Ph.halt : BitVec 4 := 14#4

/-- The micro-operation a value of PH selects (R103); code 15 is the code of none (R176). -/
def decodePhase (p : BitVec 4) : Option Instr :=
  match p.toNat with
  | 0 => some .idle
  | 1 => some .bringup
  | 2 => some .park
  | 3 => some .waitpre
  | 4 => some .txplane
  | 5 => some .cadj1
  | 6 => some .resume
  | 7 => some .cadj2
  | 8 => some .maint
  | 9 => some .waitsub
  | 10 => some .next
  | 11 => some .blank
  | 12 => some .txfinal
  | 13 => some .setstop
  | 14 => some .halt
  | _ => none

/-! ## Bus frames -/

/-- The frame `(dc, b)` (R105). -/
def frameBits (dc : Bool) (b : Byte) : Frame := BitVec.ofBool dc ++ b

/-- The bus primitive a frame belongs to (R105): DC low is a command byte, DC high a display-memory byte. -/
def decodeFrame (f : Frame) : Instr :=
  if f.extractLsb' 8 1 = 1#1 then .txd (f.extractLsb' 0 8) else .txc (f.extractLsb' 0 8)

/-! ## Host command words -/

/-- Why the decoder rejects a host command word (R102, R99). All of them are answered ERR(E_ILLEGAL) (R222). -/
inductive Illegal
  /-- `op` is 0x0 or 0xB..0xF (R102). -/
  | reservedOpcode
  /-- A field shown as 0 in R91 is not 0 (R102). -/
  | reservedBit
  /-- An unused high byte of COMMAND's last payload word is not 0 (R99). -/
  | padding
deriving DecidableEq, Repr

/-- What the decoder makes of the words at the host port. -/
inductive HostDecode
  /-- One operation, and the words after it. -/
  | ok (i : Instr) (rest : List HWord)
  /-- An illegal word (for COMMAND with its payload), and the words after it. -/
  | illegal (why : Illegal) (rest : List HWord)
  /-- No whole operation is there yet. -/
  | waiting
deriving DecidableEq, Repr

/-- The four bytes of a payload word, byte 0 in the low byte (R99). -/
def unpackWord (w : HWord) : List Byte :=
  [w.extractLsb' 0 8, w.extractLsb' 8 8, w.extractLsb' 16 8, w.extractLsb' 24 8]

/-- The bytes of the payload words, in order (R99). -/
def unpackWords : List HWord → List Byte
  | [] => []
  | w :: ws => unpackWord w ++ unpackWords ws

/-- Payload words of a COMMAND of n bytes: ceil(n / 4) (R98). -/
def payloadWords (n : Nat) : Nat := (n + 3) / 4

/-- `i` where the reserved bits are 0, else illegal (R102). -/
def orReserved (zero : Bool) (i : Instr) (rest : List HWord) : HostDecode :=
  if zero then .ok i rest else .illegal .reservedBit rest

/-- COMMAND's payload after a legal header (R98, R99). -/
def decodeCommand (n : Nat) (ws : List HWord) : HostDecode :=
  if ws.length < payloadWords n then .waiting
  else
    let bytes := unpackWords (ws.take (payloadWords n))
    let rest := ws.drop (payloadWords n)
    if (bytes.drop n).all (fun b => b == 0#8) then .ok (.command (bytes.take n)) rest
    else .illegal .padding rest

/-- The operation at the head of the words at the host port (R91, R92, R98, R99, R102).
DESIGN CHOICE (log 10): a COMMAND header with a reserved bit set takes no payload words with it.
DESIGN CHOICE (log 9): a COMMAND whose payload has not all arrived waits for it. -/
def decodeHost : List HWord → HostDecode
  | [] => .waiting
  | w :: ws =>
    match (w.extractLsb' 28 4).toNat with
    | 1 => orReserved (w.extractLsb' 2 26 == 0#26) (.fill (w.extractLsb' 0 2)) ws
    | 2 => orReserved (w.extractLsb' 2 2 == 0#2)
            (.pixel (w.extractLsb' 16 12) (w.extractLsb' 4 12) (w.extractLsb' 0 2)) ws
    | 3 => orReserved (w.extractLsb' 0 28 == 0#28) .showSync ws
    | 4 => orReserved (w.extractLsb' 0 28 == 0#28) .showAsync ws
    | 5 => orReserved (w.extractLsb' 8 20 == 0#20) (.contrast (w.extractLsb' 0 8)) ws
    | 6 => orReserved (w.extractLsb' 8 20 == 0#20) (.contrastSync (w.extractLsb' 0 8)) ws
    | 7 => orReserved (w.extractLsb' 0 28 == 0#28) .start ws
    | 8 => orReserved (w.extractLsb' 0 28 == 0#28) .teardown ws
    | 9 => if w.extractLsb' 8 20 == 0#20 then decodeCommand (w.extractLsb' 0 8).toNat ws
           else .illegal .reservedBit ws
    | 10 => orReserved (w.extractLsb' 0 28 == 0#28) .rdstat ws
    | _ => .illegal .reservedOpcode ws

/-- How many words the operation with this header has (R98). -/
def hostLength (w : HWord) : Nat :=
  if w.extractLsb' 8 24 == 0x900000#24 then 1 + payloadWords (w.extractLsb' 0 8).toNat else 1

/-! ## All layers -/

/-- An encoded operation, by layer (R90). -/
inductive Code
  | host (ws : List HWord)
  | phase (p : BitVec 4)
  | frame (f : Frame)
deriving DecidableEq, Repr

/-- Why an encoded operation is rejected. -/
inductive Rejected
  /-- The host decoder's reason. -/
  | illegal (why : Illegal)
  /-- The words end before the operation does. -/
  | incomplete
  /-- Words are left after the operation. -/
  | trailing
  /-- PH = 15 (R176). -/
  | reservedPhase
deriving DecidableEq, Repr

/-- The operation a code stands for, or why it stands for none. -/
def decode : Code → Except Rejected Instr
  | .host ws =>
    match decodeHost ws with
    | .ok i [] => .ok i
    | .ok _ (_ :: _) => .error .trailing
    | .illegal why _ => .error (.illegal why)
    | .waiting => .error .incomplete
  | .phase p =>
    match decodePhase p with
    | some i => .ok i
    | none => .error .reservedPhase
  | .frame f => .ok (decodeFrame f)

/-! ## Encoding -/

/-- Payload words of a byte list, the unused high bytes of the last one 0 (R99). -/
def packWords : List Byte → List HWord
  | [] => []
  | [a] => [0#24 ++ a]
  | [a, b] => [0#16 ++ b ++ a]
  | [a, b, c] => [0#8 ++ c ++ b ++ a]
  | a :: b :: c :: d :: rest => (d ++ c ++ b ++ a) :: packWords rest

/-- A word of format H0 (R91). -/
def wordH0 (op : BitVec 4) : HWord := op ++ 0#28

/-- A word of format HS (R91). -/
def wordHS (op : BitVec 4) (sh : BitVec 2) : HWord := op ++ 0#26 ++ sh

/-- A word of format HP (R91). -/
def wordHP (op : BitVec 4) (x y : BitVec 12) (sh : BitVec 2) : HWord := op ++ x ++ y ++ 0#2 ++ sh

/-- A word of format HL or HQ: an 8-bit operand in `W[7:0]` (R91). -/
def wordHL (op : BitVec 4) (v : Byte) : HWord := op ++ 0#20 ++ v

/-- The words of an operation (R91, R92, R98, R99, R103, R105). -/
def encode : Instr → Code
  | .fill sh => .host [wordHS 1#4 sh]
  | .pixel x y sh => .host [wordHP 2#4 x y sh]
  | .showSync => .host [wordH0 3#4]
  | .showAsync => .host [wordH0 4#4]
  | .contrast lvl => .host [wordHL 5#4 lvl]
  | .contrastSync lvl => .host [wordHL 6#4 lvl]
  | .start => .host [wordH0 7#4]
  | .teardown => .host [wordH0 8#4]
  | .command bytes => .host (wordHL 9#4 (BitVec.ofNat 8 bytes.length) :: packWords bytes)
  | .rdstat => .host [wordH0 10#4]
  | .idle => .phase Ph.idle
  | .bringup => .phase Ph.bringup
  | .park => .phase Ph.park
  | .waitpre => .phase Ph.waitpre
  | .txplane => .phase Ph.txplane
  | .cadj1 => .phase Ph.cadj1
  | .resume => .phase Ph.resume
  | .cadj2 => .phase Ph.cadj2
  | .maint => .phase Ph.maint
  | .waitsub => .phase Ph.waitsub
  | .next => .phase Ph.next
  | .blank => .phase Ph.blank
  | .txfinal => .phase Ph.txfinal
  | .setstop => .phase Ph.setstop
  | .halt => .phase Ph.halt
  | .txc b => .frame (frameBits false b)
  | .txd b => .frame (frameBits true b)

/-! ## The opcode table -/

/-- A host row of the opcode table: a word W selects it when `W & mask = match` (R101). -/
structure HostRow where
  mnemonic : String
  pattern : HWord
  mask : HWord
deriving DecidableEq, Repr

/-- Whether a word selects a row (R101). -/
def HostRow.selects (r : HostRow) (w : HWord) : Bool := w &&& r.mask == r.pattern

/-- The ten host rows (R101). -/
def hostTable : List HostRow :=
  [ { mnemonic := "FILL", pattern := 0x10000000#32, mask := 0xFFFFFFFC#32 },
    { mnemonic := "PIXEL", pattern := 0x20000000#32, mask := 0xF000000C#32 },
    { mnemonic := "SHOW", pattern := 0x30000000#32, mask := 0xFFFFFFFF#32 },
    { mnemonic := "SHOWA", pattern := 0x40000000#32, mask := 0xFFFFFFFF#32 },
    { mnemonic := "CONTRAST", pattern := 0x50000000#32, mask := 0xFFFFFF00#32 },
    { mnemonic := "CONTRASTS", pattern := 0x60000000#32, mask := 0xFFFFFF00#32 },
    { mnemonic := "START", pattern := 0x70000000#32, mask := 0xFFFFFFFF#32 },
    { mnemonic := "TEARDOWN", pattern := 0x80000000#32, mask := 0xFFFFFFFF#32 },
    { mnemonic := "COMMAND", pattern := 0x90000000#32, mask := 0xFFFFFF00#32 },
    { mnemonic := "RDSTAT", pattern := 0xA0000000#32, mask := 0xFFFFFFFF#32 } ]

/-- The row of an operation: its place in `hostTable`, for the host layer. -/
def Instr.hostRow : Instr → Option HostRow
  | .fill _ => hostTable[0]?
  | .pixel _ _ _ => hostTable[1]?
  | .showSync => hostTable[2]?
  | .showAsync => hostTable[3]?
  | .contrast _ => hostTable[4]?
  | .contrastSync _ => hostTable[5]?
  | .start => hostTable[6]?
  | .teardown => hostTable[7]?
  | .command _ => hostTable[8]?
  | .rdstat => hostTable[9]?
  | .idle | .bringup | .park | .waitpre | .txplane | .cadj1 | .resume | .cadj2 | .maint
  | .waitsub | .next | .blank | .txfinal | .setstop | .halt | .txc _ | .txd _ => none

/-! ## A table row's bits as a number -/

/-- The longest operation in words: a COMMAND header and 64 payload words. -/
abbrev maxHostWords : Nat := 65

/-- The host words of an operation whose bits are `w`, word k in bits 32k+31..32k. -/
def hostWords (w : Nat) : List HWord :=
  (List.range maxHostWords).map fun k => BitVec.ofNat 32 (w >>> (32 * k))

/-- The operation the decoder reads from the bits `w` of a table row of `nbits` bits: the host rows have 32 bits, the
phase rows 4 (one byte), the bus rows 9 (two bytes). -/
def decodeTableWord (nbits w : Nat) : Option Instr :=
  if nbits ≤ 8 then
    if w < 16 then decodePhase (BitVec.ofNat 4 w) else none
  else if nbits ≤ 16 then
    if w < 512 then some (decodeFrame (BitVec.ofNat 9 w)) else none
  else
    match decodeHost (hostWords w) with
    | .ok i _ => some i
    | .illegal _ _ => none
    | .waiting => none

end Sys2Proof
end

