-- ==== Sys2Proof/Machine/Memory.lean ====
section
/-! DEFINITION. A plane memory: 360 bytes indexed 0..359 (10_state R21, R22; 20_memory R60, R62). -/

namespace Sys2Proof.Machine

/-- The contents of one plane, as (index, byte) cells. The ONE canonical form lists every index 0..359 once, in rising
order: the spec leaves every byte arbitrary at construction (R49), so each byte is a datum of the state from the start
(log 4). -/
abbrev Memory := List Host.Cell

/-- What an index that is not listed reads as: no value. There is no such byte (R62). -/
def Memory.unlisted : Option Byte := none

/-- The byte at index i, or no value (MemRead, 00_scope R8). -/
def Memory.read : Memory → Nat → Option Byte
  | [], _ => Memory.unlisted
  | (a, v) :: m, i => if a = i then some v else Memory.read m i

/-- The byte at index i of a plane in canonical form. Callers check `Memory.wf` first, and then every i below 360 is
listed: the 0 for an index that does not exist is never used. -/
def Memory.byteAt (m : Memory) (i : Nat) : Byte := (m.read i).getD 0#8

/-- MemWrite (00_scope R8): index i gets v, an index that does not exist gets nothing. -/
def Memory.write (m : Memory) (i : Nat) (v : Byte) : Memory :=
  m.map fun c => if c.1 = i then (c.1, v) else c

/-- The plane whose byte at each index i is `f i`. -/
def Memory.ofFn (f : Nat → Byte) : Memory := (List.range planeBytes).map fun i => (i, f i)

/-- The 360 bytes in ascending index order (R65). -/
def Memory.bytes (m : Memory) : List Byte := (List.range planeBytes).map fun i => m.byteAt i

/-- Whether the cells list the indices n, n+1, .., 359 in this order. -/
def Memory.wfFrom : Nat → Memory → Bool
  | n, [] => n == planeBytes
  | n, (a, _) :: m => a == n && Memory.wfFrom (n + 1) m

/-- The canonical form: exactly the indices 0..359, rising. -/
def Memory.wf (m : Memory) : Bool := m.wfFrom 0

end Sys2Proof.Machine
end

