-- ==== Sys2Proof/Machine/State.lean ====
section
/-! DEFINITION. The state of the machine, its stops, and construction (10_state; 70_reset_and_hazards R250). -/

namespace Sys2Proof.Machine

/-! ## Values -/

/-- RUNSTATE (R23). Codes 5, 6, 7 of the 3-bit cell are never written and have no constructor. -/
inductive RunState
  | waiting
  | starting
  | running
  | stopping
  | stopped
deriving DecidableEq, Repr

/-- The numeric code of a run state (R23). -/
def RunState.code : RunState → BitVec 3
  | .waiting => 0#3
  | .starting => 1#3
  | .running => 2#3
  | .stopping => 3#3
  | .stopped => 4#3

/-- The two agents that drive the bus (R45, R200). -/
inductive Agent
  | host
  | pump
deriving DecidableEq, Repr

/-- An event of BUSLOG (R45). -/
inductive BusEvent
  /-- `Byte(dc, b, agent)`. -/
  | byte (dc : Bool) (b : Byte) (agent : Agent)
  /-- `Res(level)`. -/
  | res (level : Bool)
deriving DecidableEq, Repr

/-- The error codes of the host port (R96, R222). -/
inductive ErrCode
  | illegal
  | busy
  | len
  | state
deriving DecidableEq, Repr

/-- The number of an error code (R96). -/
def ErrCode.code : ErrCode → Nat
  | .illegal => 1
  | .busy => 2
  | .len => 3
  | .state => 4

/-- A response on the host port (R96). -/
inductive Response
  | done
  | status (word : HWord)
  | err (e : ErrCode)
deriving DecidableEq, Repr

/-- The two logical planes (R21). -/
inductive LogicalPlane
  | a
  | b
deriving DecidableEq, Repr

/-- An access to a logical plane that a FILL or PIXEL in flight still owes (R69). -/
inductive PlaneAct
  /-- Write byte `idx`. -/
  | put (p : LogicalPlane) (idx : Nat) (v : Byte)
  /-- Read byte `idx`, then write it with the bits of `mask` set or cleared. -/
  | change (p : LogicalPlane) (idx : Nat) (mask : Byte) (on : Bool)
deriving DecidableEq, Repr

/-- Where the host operation in flight stands. R38 names three wait phases, HPH in (Issue, Poll, Restore); the
constructors refine them to the atomic steps of R140. -/
inductive HostPhase
  /-- Issue: nothing done yet, or nothing in flight. -/
  | issue
  /-- FILL, PIXEL: the plane accesses still owed (R121, R123). -/
  | writes (todo : List PlaneAct)
  /-- SHOW, CONTRASTS: the request is written, RUNSTATE is read next (R143, R147). -/
  | readRun
  /-- Poll: SHOW, CONTRASTS, TEARDOWN wait (R143, R147, R148). -/
  | poll
  /-- START: bring-up items still owed, taken up when `waitLeft` is 0 (R141, R194). -/
  | bring (items : List BringItem)
  /-- TEARDOWN found Starting and waits for Running (R149). -/
  | awaitRunning
  /-- TEARDOWN has read Running and writes Stopping next (R148, HPH = Issue). -/
  | stop
  /-- Restore: TEARDOWN has read Stopped and sends RESTORE_SEQ next (R148). -/
  | restore
  /-- TEARDOWN has handed RESTORE_SEQ to the bus and responds when it is sent (R148, HPH = Restore). -/
  | finish
  /-- COMMAND has read PENDINGCMD = 0 and writes the queue next (R150). -/
  | queue
  /-- COMMAND has written the queue and sets PENDINGCMD next (R150). -/
  | setFlag
  /-- RDSTAT has read RUNSTATE (R151). -/
  | stat1 (r : RunState)
  /-- RDSTAT has read RUNSTATE and COPYPENDING (R151). -/
  | stat2 (r : RunState) (c : Bool)
  /-- RDSTAT has read RUNSTATE, COPYPENDING and PENDINGCMD (R151). -/
  | stat3 (r : RunState) (c p : Bool)
deriving DecidableEq, Repr

/-- One index of a COMPOSE under way: the bytes of LA and LB it has read so far (R69, R131). -/
structure ComposeItem where
  idx : Nat
  a : Option Byte
  b : Option Byte
deriving DecidableEq, Repr

/-- Where the pump stands inside the micro-operation of PH (a model field, log 2). -/
inductive PumpPhase
  /-- At its beginning. -/
  | start
  /-- Its bursts are handed to the bus; the successor is written when they are sent. -/
  | sent
  /-- BRINGUP: bring-up items still owed, taken up when `waitLeft` is 0 (R162, R194). -/
  | bring (items : List BringItem)
  /-- MAINT has read COPYPENDING = 1: indices COMPOSE still owes (R169, R131). -/
  | compose (todo : List ComposeItem)
  /-- MAINT: COMPOSE has finished, COPYPENDING is cleared next (R169). -/
  | clearCopy
  /-- MAINT has read COPYPENDING = 0 and reads CREQ next (R169). -/
  | readCreq
  /-- MAINT has read CREQ = some(lvl) and recomputes CADJ next (R169, R212). -/
  | recompute (lvl : Byte)
  /-- MAINT has recomputed CADJ and clears CREQ next (R169, R212). -/
  | clearCreq
  /-- MAINT has read CREQ = none and reads PENDINGCMD next (R169). -/
  | readCmd
  /-- MAINT has handed CMDQ to the bus; PENDINGCMD is cleared when it is sent (R169). -/
  | clearCmd
deriving DecidableEq, Repr

/-! ## State -/

/-- Everything the machine holds. First the spec's state (R20), then Cfg (a parameter, never written, R36), then the
environment's state (R46, R90, R96), then the model's own fields. -/
structure State where
  /-- Logical plane A (R21). -/
  la : Memory
  /-- Logical plane B (R21). -/
  lb : Memory
  /-- Derived plane 0 (R22). -/
  dp0 : Memory
  /-- Derived plane 1 (R22). -/
  dp1 : Memory
  /-- Derived plane 2 (R22). -/
  dp2 : Memory
  /-- RUNSTATE (R23). -/
  runState : RunState
  /-- COPYPENDING (R24). -/
  copyPending : Bool
  /-- PENDINGCMD (R25). -/
  pendingCmd : Bool
  /-- CREQ: valid and level, one cell (R26). -/
  creq : Option Byte
  /-- CADJ[0..2] (R28). -/
  cadj : Cadj
  /-- CMDQ (R29). -/
  cmdq : List Byte
  /-- CMDQ_LEN (R29). -/
  cmdqLen : Byte
  /-- TS1 (R30). -/
  ts1 : Nat
  /-- TS3 (R30). -/
  ts3 : Nat
  /-- PH (R33). -/
  ph : BitVec 4
  /-- SF (R33). -/
  sf : Fin 3
  /-- SDO (R37). -/
  sdo : Bool
  /-- SCK (R37). -/
  sck : Bool
  /-- DC (R37). -/
  dc : Bool
  /-- CS (R37). -/
  cs : Bool
  /-- RES (R37). -/
  res : Bool
  /-- HOP: the host operation in flight, `none` = idle (R38). -/
  hop : Option Instr
  /-- HPH and the host's place inside its operation (R38). -/
  hph : HostPhase
  /-- BUSLOG, oldest first (R45). -/
  busLog : List BusEvent
  /-- Cfg (R36). -/
  cfg : Cfg
  /-- The time base, owned by TIMEBASE (R46, R236). -/
  now : Nat
  /-- Command words presented at the host port and not yet taken (R90, R91; log 9). -/
  hostIn : List HWord
  /-- Responses given on the host port, oldest first (R96; log 12). -/
  responses : List Response
  /-- Model: the pump's place inside the micro-operation of PH (log 2). -/
  pph : PumpPhase
  /-- Model: the microseconds by which `now` has yet to advance for the `wait` item under way (R194; log 26). -/
  waitLeft : Nat
  /-- Model: frames of HOST's burst not yet shifted out (log 13). -/
  hostTx : List Frame
  /-- Model: frames of PUMP's burst not yet shifted out (log 13). -/
  pumpTx : List Frame
  /-- Model: the turn being taken (log 1). -/
  turn : Turn
  /-- Model: the turns already fixed (log 1). -/
  sched : List Turn
  /-- Model: how many turns have been drawn from `Config.freeTurn` (log 1). -/
  draws : Nat
deriving DecidableEq, Repr

/-! ## Stops -/

/-- Ways the machine stops. None of them is the spec's (it has no fault, R220): each marks a state that no run from
construction reaches (log 16, log 17), so each is safe. -/
inductive Fault
  /-- Raised by an operation that reads a plane whose cells are not exactly the indices 0..359: such a byte does not exist
  (R62). Safe. -/
  | planeShape
  /-- Raised by a host operation whose HPH belongs to another operation (R38). Safe. -/
  | foreignHostPhase
  /-- Raised by a micro-operation whose `pph` belongs to another one (R160). Safe. -/
  | foreignPumpPhase
  /-- Raised by TEARDOWN when it reads RUNSTATE = Stopping, which "cannot be observed by a sequential HOST" (R149). Safe. -/
  | stoppingObserved
  /-- Raised by MAINT when CONTRAST_MAP has no entry for the level: ConfigOK rules it out (R221). Safe. -/
  | contrastMapPartial
deriving DecidableEq, Repr

/-- Ways the machine refuses to go on. -/
inductive Refusal
  /-- Raised by `exec` for an instruction without a meaning. No instruction is one. Safe. -/
  | notModelled (mnemonic : String)
  /-- Raised by the pump's step when PH = 15, "not the code of any micro-operation and ... unreachable" (R176). Safe. -/
  | reservedPhase
deriving DecidableEq, Repr

/-- What an operation answers. -/
abbrev Result := Host.Outcome State Fault Refusal

/-! ## Construction -/

/-- A plane at construction: every byte an arbitrary value (R49), the free value `Config.planeByte` (log 4). -/
def drawnPlane (p : Nat) : Memory := Memory.ofFn (Config.planeByte p)

/-- The state after construction under `c`, the values of R48.
DESIGN CHOICE (log 5, unsafe): CMDQ's bytes, TS1 and TS3 are 0.
DESIGN CHOICE (log 20, unsafe): `now`, `turn`, `draws` and `waitLeft`. -/
def State.initial (c : Cfg) : State where
  la := drawnPlane 0
  lb := drawnPlane 1
  dp0 := drawnPlane 2
  dp1 := drawnPlane 3
  dp2 := drawnPlane 4
  runState := match c.startMode with
    | .delayed => .waiting
    | .immediate => .starting
  copyPending := false
  pendingCmd := false
  creq := none
  cadj := c.cadjInit
  cmdq := List.replicate c.cmdqMax 0#8
  cmdqLen := 0#8
  ts1 := 0
  ts3 := 0
  ph := match c.startMode with
    | .delayed => Ph.idle
    | .immediate => Ph.bringup
  sf := 0
  sdo := false
  sck := false
  dc := false
  cs := true
  res := true
  hop := none
  hph := .issue
  busLog := []
  cfg := c
  now := 0
  hostIn := []
  responses := []
  pph := .start
  waitLeft := 0
  hostTx := []
  pumpTx := []
  turn := .timebase 0
  sched := []
  draws := 0

/-- Construction (R250): refused, with no state, when ConfigOK fails (R221). -/
def State.construct (c : Cfg) : Option State :=
  if c.ok then some (State.initial c) else none

/-- The machine right after construction under the installed configuration (R48, R250; log 6). -/
def State.reset : State := State.initial Config.installed

end Sys2Proof.Machine
end

