-- ==== Sys2Proof/Machine/Operands.lean ====
section
/-! DEFINITION. Operand forms: shades, coordinates, pixel addressing (30_encoding R93, R94; 20_memory R61), payloads,
and the contrast table. -/

namespace Sys2Proof.Machine

/-- bitA of a shade operand, `sh[0]` (R93). -/
def shadeA (sh : BitVec 2) : Bool := sh.getLsbD 0

/-- bitB of a shade operand, `sh[1]` (R93). -/
def shadeB (sh : BitVec 2) : Bool := sh.getLsbD 1

/-- A byte of eight pixels all on or all off (R121). -/
def solidByte (on : Bool) : Byte := if on then 0xFF#8 else 0x00#8

/-- A coordinate operand as an integer, `sext_12` (R94, R7). -/
def coordinate (v : BitVec 12) : Int := v.toInt

/-- PIXEL's range test, on the signed coordinates (R66, R124). -/
def onScreen (x y : Int) : Bool :=
  decide (0 ≤ x) && decide (x < width) && decide (0 ≤ y) && decide (y < height)

/-- The byte index of pixel (x, y) (R61). -/
def pixelIndex (x y : Nat) : Nat := (y / pageRows) * width + x

/-- The bit of pixel (x, y) inside its byte (R61). -/
def pixelBit (y : Nat) : Nat := y % pageRows

/-- The mask of pixel (x, y) inside its byte (R61). -/
def pixelMask (y : Nat) : Byte := 1#8 <<< pixelBit y

/-- A byte with the bits of a mask set or cleared (R123). -/
def putMask (old mask : Byte) (on : Bool) : Byte := if on then old ||| mask else old &&& ~~~mask

/-- The bit of a plane at pixel (x, y) (R61). -/
def Memory.pixel (m : Memory) (x y : Nat) : Bool := (m.byteAt (pixelIndex x y)).getLsbD (pixelBit y)

/-- A shade from its two bits: `bitA | (bitB << 1)` (R21, R61). -/
def shadeOf (bitA bitB : Bool) : BitVec 2 := BitVec.ofBool bitB ++ BitVec.ofBool bitA

/-- The shade of pixel (x, y) in the logical planes (R61). -/
def State.shade (s : State) (x y : Nat) : BitVec 2 := shadeOf (s.la.pixel x y) (s.lb.pixel x y)

/-- The number of derived planes a pixel is on in: its decoded shade (R134). -/
def unaryShade (p0 p1 p2 : Bool) : Nat := p0.toNat + p1.toNat + p2.toNat

/-- The derived plane DP[k] (R22). -/
def State.derived (s : State) (k : Fin 3) : Memory :=
  match k with
  | 0 => s.dp0
  | 1 => s.dp1
  | 2 => s.dp2

/-- CONTRAST_MAP at a level (R213); no value only where the table of Cfg has no such entry (R221, log 8). -/
def contrastAt (c : Cfg) (lvl : Byte) : Option Cadj := c.contrastMap[lvl.toNat]?

/-- The bytes `[CADJ[k].b0, CADJ[k].b1]` (R108, R166). -/
def pairBytes (c : Cadj) (k : Fin 3) : List Byte := [(c.get k).b0, (c.get k).b1]

/-- Every plane lists exactly its 360 bytes. -/
def State.planesOk (s : State) : Bool :=
  s.la.wf && s.lb.wf && s.dp0.wf && s.dp1.wf && s.dp2.wf

end Sys2Proof.Machine
end

