-- ==== Sys2Proof/Machine/Flags.lean ====
section
/-! DEFINITION. The request flags. The machine has no arithmetic condition codes (10_state R35): its only flags are
COPYPENDING, CREQ.valid and PENDINGCMD, each set by a host operation and cleared by the MAINT action that serves it. -/

namespace Sys2Proof.Machine

/-- HOST: COPYPENDING <- 1 (R24). -/
def State.setCopy (s : State) : State := { s with copyPending := true }

/-- PUMP: COPYPENDING <- 0, an unconditional write (R24, R169). -/
def State.clearCopy (s : State) : State := { s with copyPending := false }

/-- HOST: CREQ <- some(lvl), one atomic write (R26). -/
def State.setCreq (s : State) (lvl : Byte) : State := { s with creq := some lvl }

/-- PUMP: CREQ <- none, an unconditional write (R26, R169). -/
def State.clearCreq (s : State) : State := { s with creq := none }

/-- HOST: PENDINGCMD <- 1 (R25). -/
def State.setCmd (s : State) : State := { s with pendingCmd := true }

/-- PUMP: PENDINGCMD <- 0, an unconditional write (R25, R169). -/
def State.clearCmd (s : State) : State := { s with pendingCmd := false }

/-- The valid bit and the level of CREQ: `none` is (0, 0) (R26). -/
def creqBits : Option Byte → BitVec 1 × Byte
  | none => (0#1, 0#8)
  | some lvl => (1#1, lvl)

/-- The status word of RDSTAT (R97, R151). -/
def statusWord (r : RunState) (c p : Bool) (q : Option Byte) : HWord :=
  0#16 ++ (creqBits q).2 ++ 0#2 ++ (creqBits q).1 ++ BitVec.ofBool p ++ BitVec.ofBool c ++ r.code

end Sys2Proof.Machine
end

