-- ==== Sys2Proof/Machine/Ops.lean ====
section
/-! DEFINITION. The operations shared by the meanings: responses and refusals, successors, the bus, bring-up, plane access,
COMPOSE, and the taking of turns. The machine has no exception entry and no return (60_exceptions R220, R227, R228): what
stands in their place is `State.refuse`. -/

namespace Sys2Proof.Machine

/-! ## The host port -/

/-- End the host operation in flight with a response (R96, R38). -/
def State.respond (s : State) (r : Response) : State :=
  { s with hop := none, hph := .issue, responses := s.responses ++ [r] }

/-- Refuse the host operation in flight: an ERR response and no other change (R222). -/
def State.refuse (s : State) (e : ErrCode) : State := s.respond (.err e)

/-- The host operation goes on at another place of its own (R38). -/
def State.hostAt (s : State) (h : HostPhase) : State := { s with hph := h }

/-! ## The pump's sequencing registers -/

/-- Write the successor into PH: the micro-operation is finished (R160). -/
def State.goto (s : State) (p : BitVec 4) : State := { s with ph := p, pph := .start }

/-- The micro-operation goes on at another place of its own. -/
def State.pumpAt (s : State) (p : PumpPhase) : State := { s with pph := p }

/-! ## The bus -/

/-- The level SCK idles at (R193: low in mode 0). PRESUMED (log 14, unsafe): low in mode 1, high in modes 2 and 3. -/
def sckIdle : ClkMode → Bool
  | .mode0 | .mode1 => false
  | .mode2 | .mode3 => true

/-- The bits of a byte in the order they leave (R65, R193). -/
def serialBits (o : BitOrder) (b : Byte) : List Bool :=
  match o with
  | .msbFirst => [b.getLsbD 7, b.getLsbD 6, b.getLsbD 5, b.getLsbD 4, b.getLsbD 3, b.getLsbD 2, b.getLsbD 1, b.getLsbD 0]
  | .lsbFirst => [b.getLsbD 0, b.getLsbD 1, b.getLsbD 2, b.getLsbD 3, b.getLsbD 4, b.getLsbD 5, b.getLsbD 6, b.getLsbD 7]

/-- The level SDO is left at by a byte: its last bit.
DEDUCED (log 14, safe): SDO is a register (R37) and keeps the last bit written to it. -/
def lastBit (o : BitOrder) (b : Byte) : Bool := (serialBits o b).getLastD false

/-- Shift out one byte (R191, R192, R193). CS stays active while `more` bytes of the burst follow. -/
def State.sendByte (s : State) (dc : Bool) (b : Byte) (who : Agent) (more : Bool) : State :=
  { s with
    dc := dc
    cs := if more then s.cfg.csActive else !s.cfg.csActive
    sck := sckIdle s.cfg.clkMode
    sdo := lastBit s.cfg.bitOrder b
    busLog := s.busLog ++ [.byte dc b who] }

/-- A whole burst, TXC for `dc` low and TXD for `dc` high (R191, R192); an empty list changes no line. -/
def State.sendBurst (s : State) (dc : Bool) (bytes : List Byte) (who : Agent) : State :=
  match bytes.getLast? with
  | none => s
  | some b =>
    { s with
      dc := dc
      cs := !s.cfg.csActive
      sck := sckIdle s.cfg.clkMode
      sdo := lastBit s.cfg.bitOrder b
      busLog := s.busLog ++ bytes.map (fun x => .byte dc x who) }

/-- TXC (R191). -/
def State.txc (s : State) (bytes : List Byte) (who : Agent) : State := s.sendBurst false bytes who

/-- TXD (R192). -/
def State.txd (s : State) (bytes : List Byte) (who : Agent) : State := s.sendBurst true bytes who

/-- The frames of a burst (R105). -/
def framesOf (dc : Bool) (bytes : List Byte) : List Frame := bytes.map (frameBits dc)

/-- The frames an agent has yet to shift out. -/
def State.pendingTx (s : State) (who : Agent) : List Frame :=
  match who with
  | .host => s.hostTx
  | .pump => s.pumpTx

/-- Hand the frames of a burst to the bus, to be shifted out one in each turn of the agent (log 13). -/
def State.enqueue (s : State) (who : Agent) (fs : List Frame) : State :=
  match who with
  | .host => { s with hostTx := s.hostTx ++ fs }
  | .pump => { s with pumpTx := s.pumpTx ++ fs }

/-- Whether the agent's next frame belongs to the same burst: the bursts queued together differ in DC (log 13). -/
def State.moreToSend (s : State) (who : Agent) (dc : Bool) : Bool :=
  match s.pendingTx who with
  | [] => false
  | f :: _ => f.getLsbD 8 == dc

/-- The agent whose turn it is, as a sender on the bus (R45). -/
def turnSender : Turn → Agent
  | .host _ _ => .host
  | .pump _ _ => .pump
  | .timebase _ => .pump

/-- The grain of a turn (log 2). -/
def turnGrain : Turn → Grain
  | .host g _ => g
  | .pump g _ => g
  | .timebase _ => .atOnce

/-- The draw of a turn among steps whose order is open (log 19). -/
def turnPick : Turn → Nat
  | .host _ k => k
  | .pump _ k => k
  | .timebase _ => 0

/-! ## BringUp -/

/-- `res l`: RES <- l, logged (R194). -/
def State.driveRes (s : State) (level : Bool) : State :=
  { s with res := level, busLog := s.busLog ++ [.res level] }

/-- `now` advances: a step of TIMEBASE, which owns it (R46, R236). The `wait` item under way is run down with it, so that
the agent that waits does not read `now` (DESIGN CHOICE, log 26, safe). -/
def State.advance (s : State) (us : Nat) : State := { s with now := s.now + us, waitLeft := s.waitLeft - us }

/-- A `wait t` begins: `now` has to advance by t (R194). It is over when `waitLeft` is 0, which is when
`now >= t0 + t` for the `now` it began at (log 26). -/
def State.beginWait (s : State) (us : Nat) : State := { s with waitLeft := us }

/-- BringUp(agent) taken at once up to its first `wait`: the state, and the items owed after it, or none when the bring-up
is done (R194; log 3). Each `cmd` is a burst of its own (log 23). -/
def State.bringUp (s : State) (who : Agent) : List BringItem → State × Option (List BringItem)
  | [] => (s, none)
  | .res level :: rest => (s.driveRes level).bringUp who rest
  | .wait us :: rest => (s.beginWait us, some rest)
  | .cmd b :: rest => (s.txc [b] who).bringUp who rest

/-- One item of BringUp(agent): the state, and the items owed after it, or none when the bring-up is done (R194). -/
def State.bringItem (s : State) (who : Agent) : List BringItem → State × Option (List BringItem)
  | [] => (s, none)
  | .res level :: rest => (s.driveRes level, some rest)
  | .wait us :: rest => (s.beginWait us, some rest)
  | .cmd b :: rest => (s.enqueue who (framesOf false [b]), some rest)

/-- A turn of BringUp(agent), at the turn's grain (R194; log 2). -/
def State.bringTurn (s : State) (who : Agent) (items : List BringItem) : State × Option (List BringItem) :=
  match turnGrain s.turn with
  | .atOnce => s.bringUp who items
  | .stepwise => s.bringItem who items

/-! ## Planes -/

/-- A logical plane (R21). -/
def State.logical (s : State) (p : LogicalPlane) : Memory :=
  match p with
  | .a => s.la
  | .b => s.lb

/-- Write one byte of a logical plane (R69). -/
def State.putLogical (s : State) (p : LogicalPlane) (i : Nat) (v : Byte) : State :=
  match p with
  | .a => { s with la := s.la.write i v }
  | .b => { s with lb := s.lb.write i v }

/-- FILL's plane contents, all 720 writes (R121). -/
def State.fillPlanes (s : State) (sh : BitVec 2) : State :=
  { s with
    la := Memory.ofFn fun _ => solidByte (shadeA sh)
    lb := Memory.ofFn fun _ => solidByte (shadeB sh) }

/-- FILL's 720 writes, each a step of its own (R69, R121). -/
def fillActs (sh : BitVec 2) : List PlaneAct :=
  (List.range planeBytes).map (fun i => .put .a i (solidByte (shadeA sh)))
    ++ (List.range planeBytes).map (fun i => .put .b i (solidByte (shadeB sh)))

/-- PIXEL's two updates, both done (R123). -/
def State.plotPixel (s : State) (x y : Nat) (sh : BitVec 2) : State :=
  let i := pixelIndex x y
  { s with
    la := s.la.write i (putMask (s.la.byteAt i) (pixelMask y) (shadeA sh))
    lb := s.lb.write i (putMask (s.lb.byteAt i) (pixelMask y) (shadeB sh)) }

/-- PIXEL's two updates, each still a read and a write (R69, R123). -/
def pixelActs (x y : Nat) (sh : BitVec 2) : List PlaneAct :=
  [.change .a (pixelIndex x y) (pixelMask y) (shadeA sh), .change .b (pixelIndex x y) (pixelMask y) (shadeB sh)]

/-- The host operation owes these plane accesses; with none left it responds DONE. -/
def State.oweWrites (s : State) (todo : List PlaneAct) : State :=
  if todo = [] then s.respond .done else s.hostAt (.writes todo)

/-- One plane access of a FILL or PIXEL in flight, the one the turn picks (R69; log 19). -/
def State.writeStep (s : State) (todo : List PlaneAct) : Result :=
  let k := turnPick s.turn % todo.length
  match todo[k]? with
  | none => .next (s.respond .done)
  | some (.put p i v) => .next ((s.putLogical p i v).oweWrites (todo.eraseIdx k))
  | some (.change p i mask on) =>
    if s.planesOk then
      .next (s.oweWrites (todo.set k (.put p i (putMask ((s.logical p).byteAt i) mask on))))
    else .fault .planeShape

/-! ## COMPOSE -/

/-- COMPOSE as one step (R131). -/
def State.composeAll (s : State) : State :=
  { s with
    dp0 := Memory.ofFn fun i => s.la.byteAt i ||| s.lb.byteAt i
    dp1 := Memory.ofFn fun i => s.lb.byteAt i
    dp2 := Memory.ofFn fun i => s.la.byteAt i &&& s.lb.byteAt i }

/-- The indices COMPOSE owes at its beginning (R131). -/
def composeItems : List ComposeItem := (List.range planeBytes).map fun i => { idx := i, a := none, b := none }

/-- An index with one more of its two bytes read; `aFirst` settles which one where neither is (R69, R131). -/
def ComposeItem.readOne (it : ComposeItem) (aFirst : Bool) (a b : Byte) : ComposeItem :=
  match it.a, it.b with
  | none, none => if aFirst then { it with a := some a } else { it with b := some b }
  | none, some _ => { it with a := some a }
  | some _, _ => { it with b := some b }

/-- The three derived bytes of an index, from its pair (a, b) (R131). -/
def State.putDerived (s : State) (i : Nat) (a b : Byte) : State :=
  { s with
    dp0 := s.dp0.write i (a ||| b)
    dp1 := s.dp1.write i b
    dp2 := s.dp2.write i (a &&& b) }

/-- COMPOSE owes these indices; with none left COPYPENDING is cleared next (R169). -/
def State.oweCompose (s : State) (todo : List ComposeItem) : State :=
  if todo = [] then s.pumpAt .clearCopy else s.pumpAt (.compose todo)

/-- One atomic read of a COMPOSE under way, of the byte the turn picks, and the three derived bytes with the second read
of an index: no other agent can see a derived plane (R50), so the writes need no steps of their own (log 18). -/
def State.composeStep (s : State) (todo : List ComposeItem) : Result :=
  let k := turnPick s.turn % todo.length
  match todo[k]? with
  | none => .next (s.pumpAt .clearCopy)
  | some it =>
    if s.planesOk then
      let it' := it.readOne (turnPick s.turn / todo.length % 2 == 0) (s.la.byteAt it.idx) (s.lb.byteAt it.idx)
      match it'.a, it'.b with
      | some a, some b => .next ((s.putDerived it.idx a b).oweCompose (todo.eraseIdx k))
      | _, _ => .next (s.oweCompose (todo.set k it'))
    else .fault .planeShape

/-! ## Turns -/

/-- Take the next turn: the head of the schedule, or a free value when the schedule is used up (log 1); nothing
makes the free turns fair (log 22). -/
def State.takeTurn (s : State) : State :=
  match s.sched with
  | t :: ts => { s with turn := t, sched := ts }
  | [] => { s with turn := Config.freeTurn s.draws, draws := s.draws + 1 }

end Sys2Proof.Machine
end

