-- ==== Sys2Proof/Machine/Bus.lean ====
section
/-! DEFINITION. The two bus primitives (44_lcd_protocol R191, R192), one frame at a time. The sender is the agent whose turn
it is; the frame ends its burst when no frame of the same DC level is pending behind it (log 13). -/

namespace Sys2Proof.Machine

/-- TXC b: one command byte (R191). -/
def execTxc (b : Byte) (s : State) : Result :=
  .next (s.sendByte false b (turnSender s.turn) (s.moreToSend (turnSender s.turn) false))

/-- TXD b: one display-memory byte (R192). -/
def execTxd (b : Byte) (s : State) : Result :=
  .next (s.sendByte true b (turnSender s.turn) (s.moreToSend (turnSender s.turn) true))

end Sys2Proof.Machine
end

