-- ==== Sys2Proof/Machine/Control.lean ====
section
/-! DEFINITION. START, SHOW, SHOWA, CONTRAST, CONTRASTS, TEARDOWN, COMMAND, RDSTAT (42_control_ops). Each reads and writes
a Synchronization State cell in one atomic step (R140); a turn taken at once runs on to the response or to the `await`. -/

namespace Sys2Proof.Machine

/-! ## The wait shared by SHOW and CONTRASTS -/

/-- After the request is written: RUNSTATE is read once, and decides whether to respond at once or to poll (R143, R147). -/
def State.testRunning (s : State) : State :=
  if s.runState = .running then s.hostAt .poll else s.respond .done

/-- One poll: respond when the request is seen served (R143, R147). -/
def State.pollServed (s : State) (served : Bool) : State :=
  if served then s.respond .done else s

/-- SHOW (R143). -/
def execShowSync (s : State) : Result :=
  match s.hph with
  | .issue =>
    match turnGrain s.turn with
    | .atOnce => .next s.setCopy.testRunning
    | .stepwise => .next (s.setCopy.hostAt .readRun)
  | .readRun => .next s.testRunning
  | .poll => .next (s.pollServed (!s.copyPending))
  | _ => .fault .foreignHostPhase

/-- SHOWA (R145). -/
def execShowAsync (s : State) : Result :=
  match s.hph with
  | .issue => .next (s.setCopy.respond .done)
  | _ => .fault .foreignHostPhase

/-- CONTRAST lvl (R146). -/
def execContrast (lvl : Byte) (s : State) : Result :=
  match s.hph with
  | .issue => .next ((s.setCreq lvl).respond .done)
  | _ => .fault .foreignHostPhase

/-- CONTRASTS lvl (R147). -/
def execContrastSync (lvl : Byte) (s : State) : Result :=
  match s.hph with
  | .issue =>
    match turnGrain s.turn with
    | .atOnce => .next (s.setCreq lvl).testRunning
    | .stepwise => .next ((s.setCreq lvl).hostAt .readRun)
  | .readRun => .next s.testRunning
  | .poll => .next (s.pollServed s.creq.isNone)
  | _ => .fault .foreignHostPhase

/-- START's release: RUNSTATE <- Running, respond DONE (R141). -/
def State.release (s : State) : State := { s with runState := .running }.respond .done

/-- START goes on with a bring-up that owes items, or releases the pump when it owes none (R141). -/
def State.startOwes (r : State × Option (List BringItem)) : State :=
  match r.2 with
  | some items => r.1.hostAt (.bring items)
  | none => r.1.release

/-- START (R141); a no-op where the strap is Immediate or RUNSTATE is not Waiting (R142). -/
def execStart (s : State) : Result :=
  match s.hph with
  | .issue =>
    if s.cfg.startMode = .delayed ∧ s.runState = .waiting then
      match turnGrain s.turn with
      | .atOnce => .next (State.startOwes (s.bringUp .host s.cfg.bringupSeq))
      | .stepwise => .next (s.hostAt (.bring s.cfg.bringupSeq))
    else .next (s.respond .done)
  | .bring items => .next (if s.waitLeft = 0 then State.startOwes (s.bringTurn .host items) else s)
  | _ => .fault .foreignHostPhase

/-- RUNSTATE <- Stopping, then poll (R148). -/
def State.requestStop (s : State) : State := { s with runState := .stopping }.hostAt .poll

/-- TEARDOWN (R148, R149). -/
def execTeardown (s : State) : Result :=
  match s.hph with
  | .issue =>
    match s.runState with
    | .stopped => .next (s.respond .done)
    | .waiting => .next (s.refuse .state)
    | .starting => .next (s.hostAt .awaitRunning)
    | .running =>
      match turnGrain s.turn with
      | .atOnce => .next s.requestStop
      | .stepwise => .next (s.hostAt .stop)
    | .stopping => .fault .stoppingObserved
  | .awaitRunning => .next (if s.runState = .running then s.hostAt .stop else s)
  | .stop => .next s.requestStop
  | .poll => .next (if s.runState = .stopped then s.hostAt .restore else s)
  | .restore =>
    match turnGrain s.turn with
    | .atOnce => .next ((s.txc s.cfg.restoreSeq .host).respond .done)
    | .stepwise => .next ((s.enqueue .host (framesOf false s.cfg.restoreSeq)).hostAt .finish)
  | .finish => .next (s.respond .done)
  | _ => .fault .foreignHostPhase

/-- The command bytes into CMDQ and their number into CMDQ_LEN (R150, R29). -/
def State.writeQueue (s : State) (bytes : List Byte) : State :=
  { s with cmdq := bytes ++ s.cmdq.drop bytes.length, cmdqLen := BitVec.ofNat 8 bytes.length }

/-- Whether COMMAND's length is one the queue holds (R150, R222). -/
def lengthOk (c : Cfg) (bytes : List Byte) : Bool :=
  decide (0 < bytes.length) && decide (bytes.length ≤ c.cmdqMax)

/-- COMMAND (R150); the padding is checked by the decoder, before the length, before PENDINGCMD (R224). -/
def execCommand (bytes : List Byte) (s : State) : Result :=
  match s.hph with
  | .issue =>
    if lengthOk s.cfg bytes then
      if s.pendingCmd then .next (s.refuse .busy)
      else
        match turnGrain s.turn with
        | .atOnce => .next ((s.writeQueue bytes).setCmd.respond .done)
        | .stepwise => .next (s.hostAt .queue)
    else .next (s.refuse .len)
  | .queue => .next ((s.writeQueue bytes).hostAt .setFlag)
  | .setFlag => .next (s.setCmd.respond .done)
  | _ => .fault .foreignHostPhase

/-- RDSTAT (R151): four atomic reads in the order of R97. -/
def execRdstat (s : State) : Result :=
  match s.hph with
  | .issue =>
    match turnGrain s.turn with
    | .atOnce => .next (s.respond (.status (statusWord s.runState s.copyPending s.pendingCmd s.creq)))
    | .stepwise => .next (s.hostAt (.stat1 s.runState))
  | .stat1 r => .next (s.hostAt (.stat2 r s.copyPending))
  | .stat2 r c => .next (s.hostAt (.stat3 r c s.pendingCmd))
  | .stat3 r c p => .next (s.respond (.status (statusWord r c p s.creq)))
  | _ => .fault .foreignHostPhase

end Sys2Proof.Machine
end

