-- ==== Sys2Proof/Machine/Framebuffer.lean ====
section
/-! DEFINITION. FILL and PIXEL (40_framebuffer_ops). -/

namespace Sys2Proof.Machine

/-- FILL sh (R121). -/
def execFill (sh : BitVec 2) (s : State) : Result :=
  match s.hph with
  | .issue =>
    match turnGrain s.turn with
    | .atOnce => .next ((s.fillPlanes sh).respond .done)
    | .stepwise => .next (s.oweWrites (fillActs sh))
  | .writes todo => s.writeStep todo
  | _ => .fault .foreignHostPhase

/-- PIXEL x, y, sh (R123); outside the screen nothing is read or written (R124). -/
def execPixel (x y : BitVec 12) (sh : BitVec 2) (s : State) : Result :=
  match s.hph with
  | .issue =>
    if onScreen (coordinate x) (coordinate y) then
      match turnGrain s.turn with
      | .atOnce =>
        if s.planesOk then .next ((s.plotPixel (coordinate x).toNat (coordinate y).toNat sh).respond .done)
        else .fault .planeShape
      | .stepwise => .next (s.oweWrites (pixelActs (coordinate x).toNat (coordinate y).toNat sh))
    else .next (s.respond .done)
  | .writes todo => s.writeStep todo
  | _ => .fault .foreignHostPhase

end Sys2Proof.Machine
end

