-- ==== Sys2Proof/Machine/Pump.lean ====
section
/-! DEFINITION. The fifteen micro-operations of the pump (43_pump_sequencer), COMPOSE and the recomputation of CADJ among
them. Those that send a burst hand it over whole in a turn taken at once (R178), or frame by frame (R191). -/

namespace Sys2Proof.Machine

/-- Send command bytes, then go to the successor `p` (R163, R166, R167, R168). -/
def State.sendThenGoto (s : State) (bytes : List Byte) (p : BitVec 4) : Result :=
  match s.pph with
  | .start =>
    match turnGrain s.turn with
    | .atOnce => .next ((s.txc bytes .pump).goto p)
    | .stepwise => .next ((s.enqueue .pump (framesOf false bytes)).pumpAt .sent)
  | .sent => .next (s.goto p)
  | _ => .fault .foreignPumpPhase

/-- Send TXPLANE_PREFIX and the 360 bytes of a plane, then go to the successor `p` (R165, R173, R65). -/
def State.sendPlane (s : State) (m : Memory) (p : BitVec 4) : Result :=
  match turnGrain s.turn with
  | .atOnce =>
    if s.planesOk then .next (((s.txc s.cfg.txplanePrefix .pump).txd m.bytes .pump).goto p)
    else .fault .planeShape
  | .stepwise =>
    if s.planesOk then
      .next ((s.enqueue .pump (framesOf false s.cfg.txplanePrefix ++ framesOf true m.bytes)).pumpAt .sent)
    else .fault .planeShape

/-- Enter the loop: SF <- 0, PH <- PARK (R161, R162). -/
def State.enterLoop (s : State) : State := { s with sf := 0 }.goto Ph.park

/-- IDLE (R161). -/
def execIdle (s : State) : Result :=
  .next (if s.runState = .waiting then s.goto Ph.idle else s.enterLoop)

/-- BRINGUP's end: RUNSTATE <- Running, then the loop (R162). -/
def State.broughtUp (s : State) : State := { s with runState := .running }.enterLoop

/-- BRINGUP goes on with a bring-up that owes items, or ends when it owes none (R162). -/
def State.bringupOwes (r : State × Option (List BringItem)) : State :=
  match r.2 with
  | some items => r.1.pumpAt (.bring items)
  | none => r.1.broughtUp

/-- BRINGUP (R162). -/
def execBringup (s : State) : Result :=
  match s.pph with
  | .start =>
    match turnGrain s.turn with
    | .atOnce => .next (State.bringupOwes (s.bringUp .pump s.cfg.bringupSeq))
    | .stepwise => .next (s.pumpAt (.bring s.cfg.bringupSeq))
  | .bring items => .next (if s.waitLeft = 0 then State.bringupOwes (s.bringTurn .pump items) else s)
  | _ => .fault .foreignPumpPhase

/-- PARK (R163): TS1 is taken before the first byte. -/
def execPark (s : State) : Result :=
  match s.pph with
  | .start => { s with ts1 := s.now }.sendThenGoto s.cfg.parkSeq Ph.waitpre
  | _ => s.sendThenGoto s.cfg.parkSeq Ph.waitpre

/-- WAITPRE (R164): no step before the deadline. -/
def execWaitpre (s : State) : Result :=
  .next (if s.ts1 + s.cfg.tPreUs ≤ s.now then s.goto Ph.txplane else s)

/-- TXPLANE (R165): TS3 is taken before the prefix bytes. -/
def execTxplane (s : State) : Result :=
  match s.pph with
  | .start => { s with ts3 := s.now }.sendPlane (s.derived s.sf) Ph.cadj1
  | .sent => .next (s.goto Ph.cadj1)
  | _ => .fault .foreignPumpPhase

/-- CADJ1 (R166). -/
def execCadj1 (s : State) : Result := s.sendThenGoto (pairBytes s.cadj s.sf) Ph.resume

/-- RESUME (R167). -/
def execResume (s : State) : Result := s.sendThenGoto s.cfg.resumeSeq Ph.cadj2

/-- CADJ2 (R168). -/
def execCadj2 (s : State) : Result := s.sendThenGoto (pairBytes s.cadj s.sf) Ph.maint

/-- The recomputation of CADJ (R212). -/
def State.recomputed (s : State) (c : Cadj) : State := { s with cadj := c }

/-- The queued command bytes (R169, R29; log 24). -/
def State.queuedBytes (s : State) : List Byte := s.cmdq.take s.cmdqLen.toNat

/-- MAINT at the checkpoint, at once (R169): at most one action, in the order copy, contrast, command. -/
def State.serveOne (s : State) : Result :=
  if s.copyPending then
    if s.planesOk then .next (s.composeAll.clearCopy.goto Ph.waitsub) else .fault .planeShape
  else
    match s.creq with
    | some lvl =>
      match contrastAt s.cfg lvl with
      | some c => .next ((s.recomputed c).clearCreq.goto Ph.waitsub)
      | none => .fault .contrastMapPartial
    | none =>
      if s.pendingCmd then .next ((s.txc s.queuedBytes .pump).clearCmd.goto Ph.waitsub)
      else .next (s.goto Ph.waitsub)

/-- MAINT (R169). Step by step, its cell reads, its COMPOSE and its clears are separate steps. -/
def execMaint (s : State) : Result :=
  match s.pph with
  | .start =>
    if s.sf = 2 then
      match turnGrain s.turn with
      | .atOnce => s.serveOne
      | .stepwise => .next (if s.copyPending then s.oweCompose composeItems else s.pumpAt .readCreq)
    else .next (s.goto Ph.waitsub)
  | .compose todo => s.composeStep todo
  | .clearCopy => .next (s.clearCopy.goto Ph.waitsub)
  | .readCreq =>
    match s.creq with
    | some lvl => .next (s.pumpAt (.recompute lvl))
    | none => .next (s.pumpAt .readCmd)
  | .recompute lvl =>
    match contrastAt s.cfg lvl with
    | some c => .next ((s.recomputed c).pumpAt .clearCreq)
    | none => .fault .contrastMapPartial
  | .clearCreq => .next (s.clearCreq.goto Ph.waitsub)
  | .readCmd =>
    if s.pendingCmd then .next ((s.enqueue .pump (framesOf false s.queuedBytes)).pumpAt .clearCmd)
    else .next (s.goto Ph.waitsub)
  | .clearCmd => .next (s.clearCmd.goto Ph.waitsub)
  | _ => .fault .foreignPumpPhase

/-- WAITSUB (R170): no step before the deadline. -/
def execWaitsub (s : State) : Result :=
  .next (if s.ts3 + s.cfg.tSubUs ≤ s.now then s.goto Ph.next else s)

/-- NEXT (R171): RUNSTATE is read only when SF = 2. -/
def execNext (s : State) : Result :=
  if s.sf = 2 then
    .next ({ s with sf := 0 }.goto (if s.runState = RunState.stopping then Ph.blank else Ph.park))
  else .next ({ s with sf := s.sf + 1 }.goto Ph.park)

/-- BLANK (R172): 360 bytes 0x00 into DP[0], which only the pump can see (R50). -/
def execBlank (s : State) : Result :=
  .next ({ s with dp0 := Memory.ofFn fun _ => 0x00#8 }.goto Ph.txfinal)

/-- TXFINAL (R173). -/
def execTxfinal (s : State) : Result :=
  match s.pph with
  | .start => s.sendPlane s.dp0 Ph.setstop
  | .sent => .next (s.goto Ph.setstop)
  | _ => .fault .foreignPumpPhase

/-- SETSTOP (R174). -/
def execSetstop (s : State) : Result := .next ({ s with runState := .stopped }.goto Ph.halt)

/-- HALT (R175): the pump has no step; a turn given to it changes nothing (log 15). -/
def execHalt (s : State) : Result := .next s

end Sys2Proof.Machine
end

