-- ==== Sys2Proof/Machine/Dispatch.lean ====
section
/-! DEFINITION. One arm per operation of the opcode table. -/

namespace Sys2Proof.Machine

def exec (i : Instr) (s : State) : Host.Outcome State Fault Refusal :=
  match i with
  | .fill sh => Sys2Proof.Machine.execFill sh s
  | .pixel x y sh => Sys2Proof.Machine.execPixel x y sh s
  | .showSync => Sys2Proof.Machine.execShowSync s
  | .showAsync => Sys2Proof.Machine.execShowAsync s
  | .contrast lvl => Sys2Proof.Machine.execContrast lvl s
  | .contrastSync lvl => Sys2Proof.Machine.execContrastSync lvl s
  | .start => Sys2Proof.Machine.execStart s
  | .teardown => Sys2Proof.Machine.execTeardown s
  | .command bytes => Sys2Proof.Machine.execCommand bytes s
  | .rdstat => Sys2Proof.Machine.execRdstat s
  | .idle => Sys2Proof.Machine.execIdle s
  | .bringup => Sys2Proof.Machine.execBringup s
  | .park => Sys2Proof.Machine.execPark s
  | .waitpre => Sys2Proof.Machine.execWaitpre s
  | .txplane => Sys2Proof.Machine.execTxplane s
  | .cadj1 => Sys2Proof.Machine.execCadj1 s
  | .resume => Sys2Proof.Machine.execResume s
  | .cadj2 => Sys2Proof.Machine.execCadj2 s
  | .maint => Sys2Proof.Machine.execMaint s
  | .waitsub => Sys2Proof.Machine.execWaitsub s
  | .next => Sys2Proof.Machine.execNext s
  | .blank => Sys2Proof.Machine.execBlank s
  | .txfinal => Sys2Proof.Machine.execTxfinal s
  | .setstop => Sys2Proof.Machine.execSetstop s
  | .halt => Sys2Proof.Machine.execHalt s
  | .txc b => Sys2Proof.Machine.execTxc b s
  | .txd b => Sys2Proof.Machine.execTxd b s

end Sys2Proof.Machine
end

