-- ==== Sys2Proof/Machine/Fetch.lean ====
section
/-! DEFINITION. What an agent's turn does before an operation runs: which operation it is, or that there is none. -/

namespace Sys2Proof.Machine

/-- What a turn comes to. -/
inductive Fetched
  /-- An operation runs at a state. -/
  | run (i : Instr) (s : State)
  /-- No operation runs; the state the turn leaves. -/
  | quiet (s : State)
  /-- PH holds no micro-operation's code (R176). -/
  | reserved
deriving DecidableEq, Repr

/-- PUMP's turn: a pending frame of its burst first, else the micro-operation PH names (R160, R105). -/
def fetchPump (s : State) : Fetched :=
  match s.pumpTx with
  | f :: rest => .run (decodeFrame f) { s with pumpTx := rest }
  | [] =>
    match decodePhase s.ph with
    | some i => .run i s
    | none => .reserved

/-- The port takes an operation's words and holds it as the one in flight (R38, R91). -/
def State.accept (s : State) (i : Instr) (rest : List HWord) : State :=
  { s with hop := some i, hph := .issue, hostIn := rest }

/-- HOST's turn: a pending frame of its burst first, else the operation in flight, else the words at the port; an illegal
word is answered ERR(E_ILLEGAL) and changes nothing else (R38, R91, R102, R222). With nothing at the port there is no
step (R241; log 15). -/
def fetchHost (s : State) : Fetched :=
  match s.hostTx with
  | f :: rest => .run (decodeFrame f) { s with hostTx := rest }
  | [] =>
    match s.hop with
    | some i => .run i s
    | none =>
      match decodeHost s.hostIn with
      | .ok i rest => .run i (s.accept i rest)
      | .illegal _ rest => .quiet ({ s with hostIn := rest }.refuse .illegal)
      | .waiting => .quiet s

/-- The turn of the state's `turn` (R9). -/
def fetch (s : State) : Fetched :=
  match s.turn with
  | .host _ _ => fetchHost s
  | .pump _ _ => fetchPump s
  | .timebase us => .quiet (s.advance us)

/-- `s` with the operation whose bits are `w` where the next turn fetches it, and that turn next in the schedule, taken
at once: the word and its payload at the idle host port, the code in PH, or the frame pending on PUMP's bus. -/
def placeWord (s : State) (nbits w : Nat) : State :=
  if nbits ≤ 8 then
    { s with ph := BitVec.ofNat 4 w, pph := .start, pumpTx := [], sched := .pump .atOnce 0 :: s.sched }
  else if nbits ≤ 16 then
    { s with pumpTx := [BitVec.ofNat 9 w], sched := .pump .atOnce 0 :: s.sched }
  else
    { s with
      hostIn := (hostWords w).take (hostLength (BitVec.ofNat 32 w))
      hop := none
      hph := .issue
      hostTx := []
      sched := .host .atOnce 0 :: s.sched }

end Sys2Proof.Machine
end

