-- ==== Sys2Proof/Machine/Step.lean ====
section
/-! DEFINITION. One step: the next turn is taken, and what it fetches runs. -/

namespace Sys2Proof.Machine

/-- One step of the machine: a step of the agent whose turn it is (R9). -/
def step (s : State) : Host.Outcome State Fault Refusal :=
  match fetch s.takeTurn with
  | .run i t => exec i t
  | .quiet t => .next t
  | .reserved => .refused .reservedPhase

/-- `s` with the operation of a table row's bits placed where `step` fetches next (log 11). -/
def State.withFetchWord (s : State) (nbits w : Nat) : State := placeWord s nbits w

end Sys2Proof.Machine
end

