-- ==== Sys2Proof/Laws/Memory.lean ====
section
/-! SUPPORT. The laws of a plane memory: read after write, the canonical form, and that every operation keeps it. -/

namespace Sys2Proof.Machine

@[simp] theorem Memory.read_nil (i : Nat) : Memory.read [] i = none := rfl

@[simp] theorem Memory.read_cons (a : Nat) (v : Byte) (m : Memory) (i : Nat) :
    Memory.read ((a, v) :: m) i = if a = i then some v else Memory.read m i := rfl

@[simp] theorem Memory.write_nil (i : Nat) (v : Byte) : Memory.write [] i v = [] := rfl

@[simp] theorem Memory.write_cons (a : Nat) (u : Byte) (m : Memory) (i : Nat) (v : Byte) :
    Memory.write ((a, u) :: m) i v = (if a = i then (a, v) else (a, u)) :: Memory.write m i v := rfl

/-- A write keeps the indices and their order. -/
@[simp] theorem Memory.map_fst_write (m : Memory) (i : Nat) (v : Byte) :
    (m.write i v).map Prod.fst = m.map Prod.fst := by
  induction m with
  | nil => rfl
  | cons c m ih =>
    obtain ⟨a, u⟩ := c
    by_cases h : a = i <;> simp [h, ih]

theorem Memory.wfFrom_iff (m : Memory) (n : Nat) (hn : n ≤ planeBytes) :
    m.wfFrom n = true ↔ m.map Prod.fst = List.range' n (planeBytes - n) := by
  induction m generalizing n with
  | nil => simp [Memory.wfFrom, List.range'_eq_nil_iff]; omega
  | cons c m ih =>
    obtain ⟨a, v⟩ := c
    rcases Nat.lt_or_ge n planeBytes with h | h
    · have e : planeBytes - n = (planeBytes - (n + 1)) + 1 := by omega
      rw [e, List.range'_succ]
      simp only [Memory.wfFrom, Bool.and_eq_true, beq_iff_eq, List.map_cons, List.cons.injEq, ih (n + 1) (by omega)]
    · have e : n = planeBytes := by omega
      subst e
      have hl : ∀ k (l : Memory), planeBytes < k → l.wfFrom k = false := by
        intro k l hk
        induction l generalizing k with
        | nil => simp [Memory.wfFrom]; omega
        | cons d l ihl => obtain ⟨b, w⟩ := d; simp [Memory.wfFrom, ihl (k + 1) (by omega)]
      simp [Memory.wfFrom, hl (planeBytes + 1) m (by omega)]

/-- The canonical form, as a statement about the indices. -/
theorem Memory.wf_iff (m : Memory) : m.wf = true ↔ m.map Prod.fst = List.range planeBytes := by
  rw [Memory.wf, Memory.wfFrom_iff m 0 (by omega), Nat.sub_zero, List.range_eq_range']

/-- A write keeps the canonical form. -/
theorem Memory.wf_write {m : Memory} (i : Nat) (v : Byte) (h : m.wf = true) : (m.write i v).wf = true := by
  rw [Memory.wf_iff] at h ⊢
  rw [Memory.map_fst_write, h]

/-- A plane given by a function is in canonical form. -/
@[simp] theorem Memory.wf_ofFn (f : Nat → Byte) : (Memory.ofFn f).wf = true := by
  rw [Memory.wf_iff, Memory.ofFn, List.map_map]
  exact (List.map_congr_left fun _ _ => rfl).trans (List.map_id _)

/-- A plane at construction is in canonical form. -/
@[simp] theorem drawnPlane_wf (p : Nat) : (drawnPlane p).wf = true := Memory.wf_ofFn _

theorem Memory.read_eq_none_iff (m : Memory) (i : Nat) : m.read i = none ↔ i ∉ m.map Prod.fst := by
  induction m with
  | nil => simp
  | cons c m ih =>
    obtain ⟨a, v⟩ := c
    by_cases h : a = i
    · simp [h]
    · simp [h, ih, Ne.symm h]

/-- In canonical form exactly the indices 0..359 have a byte. -/
theorem Memory.read_isSome_iff {m : Memory} (h : m.wf = true) (i : Nat) : (m.read i).isSome = true ↔ i < planeBytes := by
  rw [Memory.wf_iff] at h
  rw [← not_iff_not, Bool.not_eq_true, Option.isSome_eq_false_iff, Option.isNone_iff_eq_none,
    Memory.read_eq_none_iff, h, List.mem_range]

theorem Memory.read_eq_byteAt {m : Memory} (h : m.wf = true) {i : Nat} (hi : i < planeBytes) :
    m.read i = some (m.byteAt i) := by
  have hs := (Memory.read_isSome_iff h i).2 hi
  obtain ⟨v, hv⟩ := Option.isSome_iff_exists.1 hs
  simp [Memory.byteAt, hv]

/-- A write leaves every other index alone. -/
theorem Memory.read_write_other (m : Memory) {i j : Nat} (v : Byte) (hij : i ≠ j) :
    (m.write i v).read j = m.read j := by
  induction m with
  | nil => rfl
  | cons c m ih =>
    obtain ⟨a, u⟩ := c
    by_cases h : a = i
    · simp [h, hij, ih]
    · simp [h, ih]

/-- A read after a write to the same index gives the value written. -/
theorem Memory.read_write_same {m : Memory} (h : m.wf = true) {i : Nat} (hi : i < planeBytes) (v : Byte) :
    (m.write i v).read i = some v := by
  have hm : i ∈ m.map Prod.fst := by rw [(Memory.wf_iff m).1 h]; exact List.mem_range.2 hi
  clear h hi
  induction m with
  | nil => simp at hm
  | cons c m ih =>
    obtain ⟨a, u⟩ := c
    by_cases ha : a = i
    · simp [ha]
    · simp only [List.map_cons, List.mem_cons] at hm
      simp [ha, ih (hm.resolve_left (Ne.symm ha))]

theorem Memory.byteAt_write_same {m : Memory} (h : m.wf = true) {i : Nat} (hi : i < planeBytes) (v : Byte) :
    (m.write i v).byteAt i = v := by simp [Memory.byteAt, Memory.read_write_same h hi]

theorem Memory.byteAt_write_other (m : Memory) {i j : Nat} (v : Byte) (hij : i ≠ j) :
    (m.write i v).byteAt j = m.byteAt j := by simp [Memory.byteAt, Memory.read_write_other m v hij]

theorem Memory.read_map_of_mem (l : List Nat) (f : Nat → Byte) {i : Nat} (h : i ∈ l) :
    Memory.read (l.map fun k => (k, f k)) i = some (f i) := by
  induction l with
  | nil => simp at h
  | cons a l ih =>
    by_cases ha : a = i
    · simp [ha]
    · simp [ha, ih ((List.mem_cons.1 h).resolve_left (Ne.symm ha))]

/-- What a plane given by a function reads as. -/
theorem Memory.read_ofFn (f : Nat → Byte) {i : Nat} (hi : i < planeBytes) : (Memory.ofFn f).read i = some (f i) :=
  Memory.read_map_of_mem _ f (List.mem_range.2 hi)

theorem Memory.byteAt_ofFn (f : Nat → Byte) {i : Nat} (hi : i < planeBytes) : (Memory.ofFn f).byteAt i = f i := by
  simp [Memory.byteAt, Memory.read_ofFn f hi]

/-- A plane in canonical form is given by its bytes. -/
theorem Memory.eq_ofFn {m : Memory} (h : m.wf = true) : m = Memory.ofFn m.byteAt := by
  have hk := (Memory.wf_iff m).1 h
  have nd : (m.map Prod.fst).Nodup := by rw [hk]; exact List.nodup_range
  rw [Memory.ofFn, ← hk, List.map_map]
  clear h hk
  induction m with
  | nil => rfl
  | cons c m ih =>
    obtain ⟨a, v⟩ := c
    simp only [List.map_cons, List.nodup_cons] at nd
    simp only [List.map_cons, Function.comp_apply]
    refine List.cons_eq_cons.2 ⟨by simp [Memory.byteAt], ?_⟩
    conv_lhs => rw [ih nd.2]
    refine List.map_congr_left fun c hc => ?_
    have hne : a ≠ c.1 := by
      rintro rfl
      exact nd.1 (List.mem_map_of_mem hc)
    simp [Memory.byteAt, hne]

/-- Planes in canonical form with the same bytes are the same data. -/
theorem Memory.ext_byteAt {m n : Memory} (hm : m.wf = true) (hn : n.wf = true)
    (h : ∀ i, i < planeBytes → m.byteAt i = n.byteAt i) : m = n := by
  rw [Memory.eq_ofFn hm, Memory.eq_ofFn hn, Memory.ofFn, Memory.ofFn]
  refine List.map_congr_left fun i hi => ?_
  rw [h i (List.mem_range.1 hi)]

/-- A plane is sent as 360 bytes. -/
@[simp] theorem Memory.bytes_length (m : Memory) : m.bytes.length = planeBytes := by simp [Memory.bytes]

/-- Byte i of a plane is sent at place i. -/
theorem Memory.bytes_getElem? (m : Memory) {i : Nat} (hi : i < planeBytes) : m.bytes[i]? = some (m.byteAt i) := by
  simp [Memory.bytes, hi]

theorem State.planesOk_iff (s : State) : s.planesOk = true ↔
    s.la.wf = true ∧ s.lb.wf = true ∧ s.dp0.wf = true ∧ s.dp1.wf = true ∧ s.dp2.wf = true := by
  simp [State.planesOk, and_assoc]

/-- The planes are in canonical form after construction. -/
theorem reset_planesOk : State.reset.planesOk = true := by
  simp [State.planesOk_iff, State.reset, State.initial]

end Sys2Proof.Machine
end

