-- ==== Sys2Proof/Laws/State.lean ====
section
/-! SUPPORT. One lemma per field per update of the state. -/

namespace Sys2Proof.Machine

variable (s : State)

/-! ### respond -/
@[simp] theorem respond_la (r : Response) : (s.respond r).la = s.la := rfl
@[simp] theorem respond_lb (r : Response) : (s.respond r).lb = s.lb := rfl
@[simp] theorem respond_dp0 (r : Response) : (s.respond r).dp0 = s.dp0 := rfl
@[simp] theorem respond_dp1 (r : Response) : (s.respond r).dp1 = s.dp1 := rfl
@[simp] theorem respond_dp2 (r : Response) : (s.respond r).dp2 = s.dp2 := rfl
@[simp] theorem respond_runState (r : Response) : (s.respond r).runState = s.runState := rfl
@[simp] theorem respond_copyPending (r : Response) : (s.respond r).copyPending = s.copyPending := rfl
@[simp] theorem respond_pendingCmd (r : Response) : (s.respond r).pendingCmd = s.pendingCmd := rfl
@[simp] theorem respond_creq (r : Response) : (s.respond r).creq = s.creq := rfl
@[simp] theorem respond_cadj (r : Response) : (s.respond r).cadj = s.cadj := rfl
@[simp] theorem respond_cmdq (r : Response) : (s.respond r).cmdq = s.cmdq := rfl
@[simp] theorem respond_cmdqLen (r : Response) : (s.respond r).cmdqLen = s.cmdqLen := rfl
@[simp] theorem respond_ts1 (r : Response) : (s.respond r).ts1 = s.ts1 := rfl
@[simp] theorem respond_ts3 (r : Response) : (s.respond r).ts3 = s.ts3 := rfl
@[simp] theorem respond_ph (r : Response) : (s.respond r).ph = s.ph := rfl
@[simp] theorem respond_sf (r : Response) : (s.respond r).sf = s.sf := rfl
@[simp] theorem respond_sdo (r : Response) : (s.respond r).sdo = s.sdo := rfl
@[simp] theorem respond_sck (r : Response) : (s.respond r).sck = s.sck := rfl
@[simp] theorem respond_dc (r : Response) : (s.respond r).dc = s.dc := rfl
@[simp] theorem respond_cs (r : Response) : (s.respond r).cs = s.cs := rfl
@[simp] theorem respond_res (r : Response) : (s.respond r).res = s.res := rfl
@[simp] theorem respond_hop (r : Response) : (s.respond r).hop = none := rfl
@[simp] theorem respond_hph (r : Response) : (s.respond r).hph = .issue := rfl
@[simp] theorem respond_busLog (r : Response) : (s.respond r).busLog = s.busLog := rfl
@[simp] theorem respond_cfg (r : Response) : (s.respond r).cfg = s.cfg := rfl
@[simp] theorem respond_now (r : Response) : (s.respond r).now = s.now := rfl
@[simp] theorem respond_hostIn (r : Response) : (s.respond r).hostIn = s.hostIn := rfl
@[simp] theorem respond_responses (r : Response) : (s.respond r).responses = s.responses ++ [r] := rfl
@[simp] theorem respond_pph (r : Response) : (s.respond r).pph = s.pph := rfl
@[simp] theorem respond_waitLeft (r : Response) : (s.respond r).waitLeft = s.waitLeft := rfl
@[simp] theorem respond_hostTx (r : Response) : (s.respond r).hostTx = s.hostTx := rfl
@[simp] theorem respond_pumpTx (r : Response) : (s.respond r).pumpTx = s.pumpTx := rfl
@[simp] theorem respond_turn (r : Response) : (s.respond r).turn = s.turn := rfl
@[simp] theorem respond_sched (r : Response) : (s.respond r).sched = s.sched := rfl
@[simp] theorem respond_draws (r : Response) : (s.respond r).draws = s.draws := rfl

/-! ### hostAt -/
@[simp] theorem hostAt_la (h : HostPhase) : (s.hostAt h).la = s.la := rfl
@[simp] theorem hostAt_lb (h : HostPhase) : (s.hostAt h).lb = s.lb := rfl
@[simp] theorem hostAt_dp0 (h : HostPhase) : (s.hostAt h).dp0 = s.dp0 := rfl
@[simp] theorem hostAt_dp1 (h : HostPhase) : (s.hostAt h).dp1 = s.dp1 := rfl
@[simp] theorem hostAt_dp2 (h : HostPhase) : (s.hostAt h).dp2 = s.dp2 := rfl
@[simp] theorem hostAt_runState (h : HostPhase) : (s.hostAt h).runState = s.runState := rfl
@[simp] theorem hostAt_copyPending (h : HostPhase) : (s.hostAt h).copyPending = s.copyPending := rfl
@[simp] theorem hostAt_pendingCmd (h : HostPhase) : (s.hostAt h).pendingCmd = s.pendingCmd := rfl
@[simp] theorem hostAt_creq (h : HostPhase) : (s.hostAt h).creq = s.creq := rfl
@[simp] theorem hostAt_cadj (h : HostPhase) : (s.hostAt h).cadj = s.cadj := rfl
@[simp] theorem hostAt_cmdq (h : HostPhase) : (s.hostAt h).cmdq = s.cmdq := rfl
@[simp] theorem hostAt_cmdqLen (h : HostPhase) : (s.hostAt h).cmdqLen = s.cmdqLen := rfl
@[simp] theorem hostAt_ts1 (h : HostPhase) : (s.hostAt h).ts1 = s.ts1 := rfl
@[simp] theorem hostAt_ts3 (h : HostPhase) : (s.hostAt h).ts3 = s.ts3 := rfl
@[simp] theorem hostAt_ph (h : HostPhase) : (s.hostAt h).ph = s.ph := rfl
@[simp] theorem hostAt_sf (h : HostPhase) : (s.hostAt h).sf = s.sf := rfl
@[simp] theorem hostAt_sdo (h : HostPhase) : (s.hostAt h).sdo = s.sdo := rfl
@[simp] theorem hostAt_sck (h : HostPhase) : (s.hostAt h).sck = s.sck := rfl
@[simp] theorem hostAt_dc (h : HostPhase) : (s.hostAt h).dc = s.dc := rfl
@[simp] theorem hostAt_cs (h : HostPhase) : (s.hostAt h).cs = s.cs := rfl
@[simp] theorem hostAt_res (h : HostPhase) : (s.hostAt h).res = s.res := rfl
@[simp] theorem hostAt_hop (h : HostPhase) : (s.hostAt h).hop = s.hop := rfl
@[simp] theorem hostAt_hph (h : HostPhase) : (s.hostAt h).hph = h := rfl
@[simp] theorem hostAt_busLog (h : HostPhase) : (s.hostAt h).busLog = s.busLog := rfl
@[simp] theorem hostAt_cfg (h : HostPhase) : (s.hostAt h).cfg = s.cfg := rfl
@[simp] theorem hostAt_now (h : HostPhase) : (s.hostAt h).now = s.now := rfl
@[simp] theorem hostAt_hostIn (h : HostPhase) : (s.hostAt h).hostIn = s.hostIn := rfl
@[simp] theorem hostAt_responses (h : HostPhase) : (s.hostAt h).responses = s.responses := rfl
@[simp] theorem hostAt_pph (h : HostPhase) : (s.hostAt h).pph = s.pph := rfl
@[simp] theorem hostAt_waitLeft (h : HostPhase) : (s.hostAt h).waitLeft = s.waitLeft := rfl
@[simp] theorem hostAt_hostTx (h : HostPhase) : (s.hostAt h).hostTx = s.hostTx := rfl
@[simp] theorem hostAt_pumpTx (h : HostPhase) : (s.hostAt h).pumpTx = s.pumpTx := rfl
@[simp] theorem hostAt_turn (h : HostPhase) : (s.hostAt h).turn = s.turn := rfl
@[simp] theorem hostAt_sched (h : HostPhase) : (s.hostAt h).sched = s.sched := rfl
@[simp] theorem hostAt_draws (h : HostPhase) : (s.hostAt h).draws = s.draws := rfl

/-! ### goto -/
@[simp] theorem goto_la (p : BitVec 4) : (s.goto p).la = s.la := rfl
@[simp] theorem goto_lb (p : BitVec 4) : (s.goto p).lb = s.lb := rfl
@[simp] theorem goto_dp0 (p : BitVec 4) : (s.goto p).dp0 = s.dp0 := rfl
@[simp] theorem goto_dp1 (p : BitVec 4) : (s.goto p).dp1 = s.dp1 := rfl
@[simp] theorem goto_dp2 (p : BitVec 4) : (s.goto p).dp2 = s.dp2 := rfl
@[simp] theorem goto_runState (p : BitVec 4) : (s.goto p).runState = s.runState := rfl
@[simp] theorem goto_copyPending (p : BitVec 4) : (s.goto p).copyPending = s.copyPending := rfl
@[simp] theorem goto_pendingCmd (p : BitVec 4) : (s.goto p).pendingCmd = s.pendingCmd := rfl
@[simp] theorem goto_creq (p : BitVec 4) : (s.goto p).creq = s.creq := rfl
@[simp] theorem goto_cadj (p : BitVec 4) : (s.goto p).cadj = s.cadj := rfl
@[simp] theorem goto_cmdq (p : BitVec 4) : (s.goto p).cmdq = s.cmdq := rfl
@[simp] theorem goto_cmdqLen (p : BitVec 4) : (s.goto p).cmdqLen = s.cmdqLen := rfl
@[simp] theorem goto_ts1 (p : BitVec 4) : (s.goto p).ts1 = s.ts1 := rfl
@[simp] theorem goto_ts3 (p : BitVec 4) : (s.goto p).ts3 = s.ts3 := rfl
@[simp] theorem goto_ph (p : BitVec 4) : (s.goto p).ph = p := rfl
@[simp] theorem goto_sf (p : BitVec 4) : (s.goto p).sf = s.sf := rfl
@[simp] theorem goto_sdo (p : BitVec 4) : (s.goto p).sdo = s.sdo := rfl
@[simp] theorem goto_sck (p : BitVec 4) : (s.goto p).sck = s.sck := rfl
@[simp] theorem goto_dc (p : BitVec 4) : (s.goto p).dc = s.dc := rfl
@[simp] theorem goto_cs (p : BitVec 4) : (s.goto p).cs = s.cs := rfl
@[simp] theorem goto_res (p : BitVec 4) : (s.goto p).res = s.res := rfl
@[simp] theorem goto_hop (p : BitVec 4) : (s.goto p).hop = s.hop := rfl
@[simp] theorem goto_hph (p : BitVec 4) : (s.goto p).hph = s.hph := rfl
@[simp] theorem goto_busLog (p : BitVec 4) : (s.goto p).busLog = s.busLog := rfl
@[simp] theorem goto_cfg (p : BitVec 4) : (s.goto p).cfg = s.cfg := rfl
@[simp] theorem goto_now (p : BitVec 4) : (s.goto p).now = s.now := rfl
@[simp] theorem goto_hostIn (p : BitVec 4) : (s.goto p).hostIn = s.hostIn := rfl
@[simp] theorem goto_responses (p : BitVec 4) : (s.goto p).responses = s.responses := rfl
@[simp] theorem goto_pph (p : BitVec 4) : (s.goto p).pph = .start := rfl
@[simp] theorem goto_waitLeft (p : BitVec 4) : (s.goto p).waitLeft = s.waitLeft := rfl
@[simp] theorem goto_hostTx (p : BitVec 4) : (s.goto p).hostTx = s.hostTx := rfl
@[simp] theorem goto_pumpTx (p : BitVec 4) : (s.goto p).pumpTx = s.pumpTx := rfl
@[simp] theorem goto_turn (p : BitVec 4) : (s.goto p).turn = s.turn := rfl
@[simp] theorem goto_sched (p : BitVec 4) : (s.goto p).sched = s.sched := rfl
@[simp] theorem goto_draws (p : BitVec 4) : (s.goto p).draws = s.draws := rfl

/-! ### pumpAt -/
@[simp] theorem pumpAt_la (p : PumpPhase) : (s.pumpAt p).la = s.la := rfl
@[simp] theorem pumpAt_lb (p : PumpPhase) : (s.pumpAt p).lb = s.lb := rfl
@[simp] theorem pumpAt_dp0 (p : PumpPhase) : (s.pumpAt p).dp0 = s.dp0 := rfl
@[simp] theorem pumpAt_dp1 (p : PumpPhase) : (s.pumpAt p).dp1 = s.dp1 := rfl
@[simp] theorem pumpAt_dp2 (p : PumpPhase) : (s.pumpAt p).dp2 = s.dp2 := rfl
@[simp] theorem pumpAt_runState (p : PumpPhase) : (s.pumpAt p).runState = s.runState := rfl
@[simp] theorem pumpAt_copyPending (p : PumpPhase) : (s.pumpAt p).copyPending = s.copyPending := rfl
@[simp] theorem pumpAt_pendingCmd (p : PumpPhase) : (s.pumpAt p).pendingCmd = s.pendingCmd := rfl
@[simp] theorem pumpAt_creq (p : PumpPhase) : (s.pumpAt p).creq = s.creq := rfl
@[simp] theorem pumpAt_cadj (p : PumpPhase) : (s.pumpAt p).cadj = s.cadj := rfl
@[simp] theorem pumpAt_cmdq (p : PumpPhase) : (s.pumpAt p).cmdq = s.cmdq := rfl
@[simp] theorem pumpAt_cmdqLen (p : PumpPhase) : (s.pumpAt p).cmdqLen = s.cmdqLen := rfl
@[simp] theorem pumpAt_ts1 (p : PumpPhase) : (s.pumpAt p).ts1 = s.ts1 := rfl
@[simp] theorem pumpAt_ts3 (p : PumpPhase) : (s.pumpAt p).ts3 = s.ts3 := rfl
@[simp] theorem pumpAt_ph (p : PumpPhase) : (s.pumpAt p).ph = s.ph := rfl
@[simp] theorem pumpAt_sf (p : PumpPhase) : (s.pumpAt p).sf = s.sf := rfl
@[simp] theorem pumpAt_sdo (p : PumpPhase) : (s.pumpAt p).sdo = s.sdo := rfl
@[simp] theorem pumpAt_sck (p : PumpPhase) : (s.pumpAt p).sck = s.sck := rfl
@[simp] theorem pumpAt_dc (p : PumpPhase) : (s.pumpAt p).dc = s.dc := rfl
@[simp] theorem pumpAt_cs (p : PumpPhase) : (s.pumpAt p).cs = s.cs := rfl
@[simp] theorem pumpAt_res (p : PumpPhase) : (s.pumpAt p).res = s.res := rfl
@[simp] theorem pumpAt_hop (p : PumpPhase) : (s.pumpAt p).hop = s.hop := rfl
@[simp] theorem pumpAt_hph (p : PumpPhase) : (s.pumpAt p).hph = s.hph := rfl
@[simp] theorem pumpAt_busLog (p : PumpPhase) : (s.pumpAt p).busLog = s.busLog := rfl
@[simp] theorem pumpAt_cfg (p : PumpPhase) : (s.pumpAt p).cfg = s.cfg := rfl
@[simp] theorem pumpAt_now (p : PumpPhase) : (s.pumpAt p).now = s.now := rfl
@[simp] theorem pumpAt_hostIn (p : PumpPhase) : (s.pumpAt p).hostIn = s.hostIn := rfl
@[simp] theorem pumpAt_responses (p : PumpPhase) : (s.pumpAt p).responses = s.responses := rfl
@[simp] theorem pumpAt_pph (p : PumpPhase) : (s.pumpAt p).pph = p := rfl
@[simp] theorem pumpAt_waitLeft (p : PumpPhase) : (s.pumpAt p).waitLeft = s.waitLeft := rfl
@[simp] theorem pumpAt_hostTx (p : PumpPhase) : (s.pumpAt p).hostTx = s.hostTx := rfl
@[simp] theorem pumpAt_pumpTx (p : PumpPhase) : (s.pumpAt p).pumpTx = s.pumpTx := rfl
@[simp] theorem pumpAt_turn (p : PumpPhase) : (s.pumpAt p).turn = s.turn := rfl
@[simp] theorem pumpAt_sched (p : PumpPhase) : (s.pumpAt p).sched = s.sched := rfl
@[simp] theorem pumpAt_draws (p : PumpPhase) : (s.pumpAt p).draws = s.draws := rfl

/-! ### sendByte -/
@[simp] theorem sendByte_la (d : Bool) (b : Byte) (who : Agent) (more : Bool) : (s.sendByte d b who more).la = s.la := rfl
@[simp] theorem sendByte_lb (d : Bool) (b : Byte) (who : Agent) (more : Bool) : (s.sendByte d b who more).lb = s.lb := rfl
@[simp] theorem sendByte_dp0 (d : Bool) (b : Byte) (who : Agent) (more : Bool) : (s.sendByte d b who more).dp0 = s.dp0 := rfl
@[simp] theorem sendByte_dp1 (d : Bool) (b : Byte) (who : Agent) (more : Bool) : (s.sendByte d b who more).dp1 = s.dp1 := rfl
@[simp] theorem sendByte_dp2 (d : Bool) (b : Byte) (who : Agent) (more : Bool) : (s.sendByte d b who more).dp2 = s.dp2 := rfl
@[simp] theorem sendByte_runState (d : Bool) (b : Byte) (who : Agent) (more : Bool) : (s.sendByte d b who more).runState = s.runState := rfl
@[simp] theorem sendByte_copyPending (d : Bool) (b : Byte) (who : Agent) (more : Bool) : (s.sendByte d b who more).copyPending = s.copyPending := rfl
@[simp] theorem sendByte_pendingCmd (d : Bool) (b : Byte) (who : Agent) (more : Bool) : (s.sendByte d b who more).pendingCmd = s.pendingCmd := rfl
@[simp] theorem sendByte_creq (d : Bool) (b : Byte) (who : Agent) (more : Bool) : (s.sendByte d b who more).creq = s.creq := rfl
@[simp] theorem sendByte_cadj (d : Bool) (b : Byte) (who : Agent) (more : Bool) : (s.sendByte d b who more).cadj = s.cadj := rfl
@[simp] theorem sendByte_cmdq (d : Bool) (b : Byte) (who : Agent) (more : Bool) : (s.sendByte d b who more).cmdq = s.cmdq := rfl
@[simp] theorem sendByte_cmdqLen (d : Bool) (b : Byte) (who : Agent) (more : Bool) : (s.sendByte d b who more).cmdqLen = s.cmdqLen := rfl
@[simp] theorem sendByte_ts1 (d : Bool) (b : Byte) (who : Agent) (more : Bool) : (s.sendByte d b who more).ts1 = s.ts1 := rfl
@[simp] theorem sendByte_ts3 (d : Bool) (b : Byte) (who : Agent) (more : Bool) : (s.sendByte d b who more).ts3 = s.ts3 := rfl
@[simp] theorem sendByte_ph (d : Bool) (b : Byte) (who : Agent) (more : Bool) : (s.sendByte d b who more).ph = s.ph := rfl
@[simp] theorem sendByte_sf (d : Bool) (b : Byte) (who : Agent) (more : Bool) : (s.sendByte d b who more).sf = s.sf := rfl
@[simp] theorem sendByte_sdo (d : Bool) (b : Byte) (who : Agent) (more : Bool) : (s.sendByte d b who more).sdo = lastBit s.cfg.bitOrder b := rfl
@[simp] theorem sendByte_sck (d : Bool) (b : Byte) (who : Agent) (more : Bool) : (s.sendByte d b who more).sck = sckIdle s.cfg.clkMode := rfl
@[simp] theorem sendByte_dc (d : Bool) (b : Byte) (who : Agent) (more : Bool) : (s.sendByte d b who more).dc = d := rfl
@[simp] theorem sendByte_cs (d : Bool) (b : Byte) (who : Agent) (more : Bool) : (s.sendByte d b who more).cs = (if more then s.cfg.csActive else !s.cfg.csActive) := rfl
@[simp] theorem sendByte_res (d : Bool) (b : Byte) (who : Agent) (more : Bool) : (s.sendByte d b who more).res = s.res := rfl
@[simp] theorem sendByte_hop (d : Bool) (b : Byte) (who : Agent) (more : Bool) : (s.sendByte d b who more).hop = s.hop := rfl
@[simp] theorem sendByte_hph (d : Bool) (b : Byte) (who : Agent) (more : Bool) : (s.sendByte d b who more).hph = s.hph := rfl
@[simp] theorem sendByte_busLog (d : Bool) (b : Byte) (who : Agent) (more : Bool) : (s.sendByte d b who more).busLog = s.busLog ++ [.byte d b who] := rfl
@[simp] theorem sendByte_cfg (d : Bool) (b : Byte) (who : Agent) (more : Bool) : (s.sendByte d b who more).cfg = s.cfg := rfl
@[simp] theorem sendByte_now (d : Bool) (b : Byte) (who : Agent) (more : Bool) : (s.sendByte d b who more).now = s.now := rfl
@[simp] theorem sendByte_hostIn (d : Bool) (b : Byte) (who : Agent) (more : Bool) : (s.sendByte d b who more).hostIn = s.hostIn := rfl
@[simp] theorem sendByte_responses (d : Bool) (b : Byte) (who : Agent) (more : Bool) : (s.sendByte d b who more).responses = s.responses := rfl
@[simp] theorem sendByte_pph (d : Bool) (b : Byte) (who : Agent) (more : Bool) : (s.sendByte d b who more).pph = s.pph := rfl
@[simp] theorem sendByte_waitLeft (d : Bool) (b : Byte) (who : Agent) (more : Bool) : (s.sendByte d b who more).waitLeft = s.waitLeft := rfl
@[simp] theorem sendByte_hostTx (d : Bool) (b : Byte) (who : Agent) (more : Bool) : (s.sendByte d b who more).hostTx = s.hostTx := rfl
@[simp] theorem sendByte_pumpTx (d : Bool) (b : Byte) (who : Agent) (more : Bool) : (s.sendByte d b who more).pumpTx = s.pumpTx := rfl
@[simp] theorem sendByte_turn (d : Bool) (b : Byte) (who : Agent) (more : Bool) : (s.sendByte d b who more).turn = s.turn := rfl
@[simp] theorem sendByte_sched (d : Bool) (b : Byte) (who : Agent) (more : Bool) : (s.sendByte d b who more).sched = s.sched := rfl
@[simp] theorem sendByte_draws (d : Bool) (b : Byte) (who : Agent) (more : Bool) : (s.sendByte d b who more).draws = s.draws := rfl

/-! ### driveRes -/
@[simp] theorem driveRes_la (l : Bool) : (s.driveRes l).la = s.la := rfl
@[simp] theorem driveRes_lb (l : Bool) : (s.driveRes l).lb = s.lb := rfl
@[simp] theorem driveRes_dp0 (l : Bool) : (s.driveRes l).dp0 = s.dp0 := rfl
@[simp] theorem driveRes_dp1 (l : Bool) : (s.driveRes l).dp1 = s.dp1 := rfl
@[simp] theorem driveRes_dp2 (l : Bool) : (s.driveRes l).dp2 = s.dp2 := rfl
@[simp] theorem driveRes_runState (l : Bool) : (s.driveRes l).runState = s.runState := rfl
@[simp] theorem driveRes_copyPending (l : Bool) : (s.driveRes l).copyPending = s.copyPending := rfl
@[simp] theorem driveRes_pendingCmd (l : Bool) : (s.driveRes l).pendingCmd = s.pendingCmd := rfl
@[simp] theorem driveRes_creq (l : Bool) : (s.driveRes l).creq = s.creq := rfl
@[simp] theorem driveRes_cadj (l : Bool) : (s.driveRes l).cadj = s.cadj := rfl
@[simp] theorem driveRes_cmdq (l : Bool) : (s.driveRes l).cmdq = s.cmdq := rfl
@[simp] theorem driveRes_cmdqLen (l : Bool) : (s.driveRes l).cmdqLen = s.cmdqLen := rfl
@[simp] theorem driveRes_ts1 (l : Bool) : (s.driveRes l).ts1 = s.ts1 := rfl
@[simp] theorem driveRes_ts3 (l : Bool) : (s.driveRes l).ts3 = s.ts3 := rfl
@[simp] theorem driveRes_ph (l : Bool) : (s.driveRes l).ph = s.ph := rfl
@[simp] theorem driveRes_sf (l : Bool) : (s.driveRes l).sf = s.sf := rfl
@[simp] theorem driveRes_sdo (l : Bool) : (s.driveRes l).sdo = s.sdo := rfl
@[simp] theorem driveRes_sck (l : Bool) : (s.driveRes l).sck = s.sck := rfl
@[simp] theorem driveRes_dc (l : Bool) : (s.driveRes l).dc = s.dc := rfl
@[simp] theorem driveRes_cs (l : Bool) : (s.driveRes l).cs = s.cs := rfl
@[simp] theorem driveRes_res (l : Bool) : (s.driveRes l).res = l := rfl
@[simp] theorem driveRes_hop (l : Bool) : (s.driveRes l).hop = s.hop := rfl
@[simp] theorem driveRes_hph (l : Bool) : (s.driveRes l).hph = s.hph := rfl
@[simp] theorem driveRes_busLog (l : Bool) : (s.driveRes l).busLog = s.busLog ++ [.res l] := rfl
@[simp] theorem driveRes_cfg (l : Bool) : (s.driveRes l).cfg = s.cfg := rfl
@[simp] theorem driveRes_now (l : Bool) : (s.driveRes l).now = s.now := rfl
@[simp] theorem driveRes_hostIn (l : Bool) : (s.driveRes l).hostIn = s.hostIn := rfl
@[simp] theorem driveRes_responses (l : Bool) : (s.driveRes l).responses = s.responses := rfl
@[simp] theorem driveRes_pph (l : Bool) : (s.driveRes l).pph = s.pph := rfl
@[simp] theorem driveRes_waitLeft (l : Bool) : (s.driveRes l).waitLeft = s.waitLeft := rfl
@[simp] theorem driveRes_hostTx (l : Bool) : (s.driveRes l).hostTx = s.hostTx := rfl
@[simp] theorem driveRes_pumpTx (l : Bool) : (s.driveRes l).pumpTx = s.pumpTx := rfl
@[simp] theorem driveRes_turn (l : Bool) : (s.driveRes l).turn = s.turn := rfl
@[simp] theorem driveRes_sched (l : Bool) : (s.driveRes l).sched = s.sched := rfl
@[simp] theorem driveRes_draws (l : Bool) : (s.driveRes l).draws = s.draws := rfl

/-! ### advance -/
@[simp] theorem advance_la (us : Nat) : (s.advance us).la = s.la := rfl
@[simp] theorem advance_lb (us : Nat) : (s.advance us).lb = s.lb := rfl
@[simp] theorem advance_dp0 (us : Nat) : (s.advance us).dp0 = s.dp0 := rfl
@[simp] theorem advance_dp1 (us : Nat) : (s.advance us).dp1 = s.dp1 := rfl
@[simp] theorem advance_dp2 (us : Nat) : (s.advance us).dp2 = s.dp2 := rfl
@[simp] theorem advance_runState (us : Nat) : (s.advance us).runState = s.runState := rfl
@[simp] theorem advance_copyPending (us : Nat) : (s.advance us).copyPending = s.copyPending := rfl
@[simp] theorem advance_pendingCmd (us : Nat) : (s.advance us).pendingCmd = s.pendingCmd := rfl
@[simp] theorem advance_creq (us : Nat) : (s.advance us).creq = s.creq := rfl
@[simp] theorem advance_cadj (us : Nat) : (s.advance us).cadj = s.cadj := rfl
@[simp] theorem advance_cmdq (us : Nat) : (s.advance us).cmdq = s.cmdq := rfl
@[simp] theorem advance_cmdqLen (us : Nat) : (s.advance us).cmdqLen = s.cmdqLen := rfl
@[simp] theorem advance_ts1 (us : Nat) : (s.advance us).ts1 = s.ts1 := rfl
@[simp] theorem advance_ts3 (us : Nat) : (s.advance us).ts3 = s.ts3 := rfl
@[simp] theorem advance_ph (us : Nat) : (s.advance us).ph = s.ph := rfl
@[simp] theorem advance_sf (us : Nat) : (s.advance us).sf = s.sf := rfl
@[simp] theorem advance_sdo (us : Nat) : (s.advance us).sdo = s.sdo := rfl
@[simp] theorem advance_sck (us : Nat) : (s.advance us).sck = s.sck := rfl
@[simp] theorem advance_dc (us : Nat) : (s.advance us).dc = s.dc := rfl
@[simp] theorem advance_cs (us : Nat) : (s.advance us).cs = s.cs := rfl
@[simp] theorem advance_res (us : Nat) : (s.advance us).res = s.res := rfl
@[simp] theorem advance_hop (us : Nat) : (s.advance us).hop = s.hop := rfl
@[simp] theorem advance_hph (us : Nat) : (s.advance us).hph = s.hph := rfl
@[simp] theorem advance_busLog (us : Nat) : (s.advance us).busLog = s.busLog := rfl
@[simp] theorem advance_cfg (us : Nat) : (s.advance us).cfg = s.cfg := rfl
@[simp] theorem advance_now (us : Nat) : (s.advance us).now = s.now + us := rfl
@[simp] theorem advance_hostIn (us : Nat) : (s.advance us).hostIn = s.hostIn := rfl
@[simp] theorem advance_responses (us : Nat) : (s.advance us).responses = s.responses := rfl
@[simp] theorem advance_pph (us : Nat) : (s.advance us).pph = s.pph := rfl
@[simp] theorem advance_waitLeft (us : Nat) : (s.advance us).waitLeft = s.waitLeft - us := rfl
@[simp] theorem advance_hostTx (us : Nat) : (s.advance us).hostTx = s.hostTx := rfl
@[simp] theorem advance_pumpTx (us : Nat) : (s.advance us).pumpTx = s.pumpTx := rfl
@[simp] theorem advance_turn (us : Nat) : (s.advance us).turn = s.turn := rfl
@[simp] theorem advance_sched (us : Nat) : (s.advance us).sched = s.sched := rfl
@[simp] theorem advance_draws (us : Nat) : (s.advance us).draws = s.draws := rfl

/-! ### beginWait -/
@[simp] theorem beginWait_la (us : Nat) : (s.beginWait us).la = s.la := rfl
@[simp] theorem beginWait_lb (us : Nat) : (s.beginWait us).lb = s.lb := rfl
@[simp] theorem beginWait_dp0 (us : Nat) : (s.beginWait us).dp0 = s.dp0 := rfl
@[simp] theorem beginWait_dp1 (us : Nat) : (s.beginWait us).dp1 = s.dp1 := rfl
@[simp] theorem beginWait_dp2 (us : Nat) : (s.beginWait us).dp2 = s.dp2 := rfl
@[simp] theorem beginWait_runState (us : Nat) : (s.beginWait us).runState = s.runState := rfl
@[simp] theorem beginWait_copyPending (us : Nat) : (s.beginWait us).copyPending = s.copyPending := rfl
@[simp] theorem beginWait_pendingCmd (us : Nat) : (s.beginWait us).pendingCmd = s.pendingCmd := rfl
@[simp] theorem beginWait_creq (us : Nat) : (s.beginWait us).creq = s.creq := rfl
@[simp] theorem beginWait_cadj (us : Nat) : (s.beginWait us).cadj = s.cadj := rfl
@[simp] theorem beginWait_cmdq (us : Nat) : (s.beginWait us).cmdq = s.cmdq := rfl
@[simp] theorem beginWait_cmdqLen (us : Nat) : (s.beginWait us).cmdqLen = s.cmdqLen := rfl
@[simp] theorem beginWait_ts1 (us : Nat) : (s.beginWait us).ts1 = s.ts1 := rfl
@[simp] theorem beginWait_ts3 (us : Nat) : (s.beginWait us).ts3 = s.ts3 := rfl
@[simp] theorem beginWait_ph (us : Nat) : (s.beginWait us).ph = s.ph := rfl
@[simp] theorem beginWait_sf (us : Nat) : (s.beginWait us).sf = s.sf := rfl
@[simp] theorem beginWait_sdo (us : Nat) : (s.beginWait us).sdo = s.sdo := rfl
@[simp] theorem beginWait_sck (us : Nat) : (s.beginWait us).sck = s.sck := rfl
@[simp] theorem beginWait_dc (us : Nat) : (s.beginWait us).dc = s.dc := rfl
@[simp] theorem beginWait_cs (us : Nat) : (s.beginWait us).cs = s.cs := rfl
@[simp] theorem beginWait_res (us : Nat) : (s.beginWait us).res = s.res := rfl
@[simp] theorem beginWait_hop (us : Nat) : (s.beginWait us).hop = s.hop := rfl
@[simp] theorem beginWait_hph (us : Nat) : (s.beginWait us).hph = s.hph := rfl
@[simp] theorem beginWait_busLog (us : Nat) : (s.beginWait us).busLog = s.busLog := rfl
@[simp] theorem beginWait_cfg (us : Nat) : (s.beginWait us).cfg = s.cfg := rfl
@[simp] theorem beginWait_now (us : Nat) : (s.beginWait us).now = s.now := rfl
@[simp] theorem beginWait_hostIn (us : Nat) : (s.beginWait us).hostIn = s.hostIn := rfl
@[simp] theorem beginWait_responses (us : Nat) : (s.beginWait us).responses = s.responses := rfl
@[simp] theorem beginWait_pph (us : Nat) : (s.beginWait us).pph = s.pph := rfl
@[simp] theorem beginWait_waitLeft (us : Nat) : (s.beginWait us).waitLeft = us := rfl
@[simp] theorem beginWait_hostTx (us : Nat) : (s.beginWait us).hostTx = s.hostTx := rfl
@[simp] theorem beginWait_pumpTx (us : Nat) : (s.beginWait us).pumpTx = s.pumpTx := rfl
@[simp] theorem beginWait_turn (us : Nat) : (s.beginWait us).turn = s.turn := rfl
@[simp] theorem beginWait_sched (us : Nat) : (s.beginWait us).sched = s.sched := rfl
@[simp] theorem beginWait_draws (us : Nat) : (s.beginWait us).draws = s.draws := rfl

/-! ### setCopy -/
@[simp] theorem setCopy_la : (s.setCopy).la = s.la := rfl
@[simp] theorem setCopy_lb : (s.setCopy).lb = s.lb := rfl
@[simp] theorem setCopy_dp0 : (s.setCopy).dp0 = s.dp0 := rfl
@[simp] theorem setCopy_dp1 : (s.setCopy).dp1 = s.dp1 := rfl
@[simp] theorem setCopy_dp2 : (s.setCopy).dp2 = s.dp2 := rfl
@[simp] theorem setCopy_runState : (s.setCopy).runState = s.runState := rfl
@[simp] theorem setCopy_copyPending : (s.setCopy).copyPending = true := rfl
@[simp] theorem setCopy_pendingCmd : (s.setCopy).pendingCmd = s.pendingCmd := rfl
@[simp] theorem setCopy_creq : (s.setCopy).creq = s.creq := rfl
@[simp] theorem setCopy_cadj : (s.setCopy).cadj = s.cadj := rfl
@[simp] theorem setCopy_cmdq : (s.setCopy).cmdq = s.cmdq := rfl
@[simp] theorem setCopy_cmdqLen : (s.setCopy).cmdqLen = s.cmdqLen := rfl
@[simp] theorem setCopy_ts1 : (s.setCopy).ts1 = s.ts1 := rfl
@[simp] theorem setCopy_ts3 : (s.setCopy).ts3 = s.ts3 := rfl
@[simp] theorem setCopy_ph : (s.setCopy).ph = s.ph := rfl
@[simp] theorem setCopy_sf : (s.setCopy).sf = s.sf := rfl
@[simp] theorem setCopy_sdo : (s.setCopy).sdo = s.sdo := rfl
@[simp] theorem setCopy_sck : (s.setCopy).sck = s.sck := rfl
@[simp] theorem setCopy_dc : (s.setCopy).dc = s.dc := rfl
@[simp] theorem setCopy_cs : (s.setCopy).cs = s.cs := rfl
@[simp] theorem setCopy_res : (s.setCopy).res = s.res := rfl
@[simp] theorem setCopy_hop : (s.setCopy).hop = s.hop := rfl
@[simp] theorem setCopy_hph : (s.setCopy).hph = s.hph := rfl
@[simp] theorem setCopy_busLog : (s.setCopy).busLog = s.busLog := rfl
@[simp] theorem setCopy_cfg : (s.setCopy).cfg = s.cfg := rfl
@[simp] theorem setCopy_now : (s.setCopy).now = s.now := rfl
@[simp] theorem setCopy_hostIn : (s.setCopy).hostIn = s.hostIn := rfl
@[simp] theorem setCopy_responses : (s.setCopy).responses = s.responses := rfl
@[simp] theorem setCopy_pph : (s.setCopy).pph = s.pph := rfl
@[simp] theorem setCopy_waitLeft : (s.setCopy).waitLeft = s.waitLeft := rfl
@[simp] theorem setCopy_hostTx : (s.setCopy).hostTx = s.hostTx := rfl
@[simp] theorem setCopy_pumpTx : (s.setCopy).pumpTx = s.pumpTx := rfl
@[simp] theorem setCopy_turn : (s.setCopy).turn = s.turn := rfl
@[simp] theorem setCopy_sched : (s.setCopy).sched = s.sched := rfl
@[simp] theorem setCopy_draws : (s.setCopy).draws = s.draws := rfl

/-! ### clearCopy -/
@[simp] theorem clearCopy_la : (s.clearCopy).la = s.la := rfl
@[simp] theorem clearCopy_lb : (s.clearCopy).lb = s.lb := rfl
@[simp] theorem clearCopy_dp0 : (s.clearCopy).dp0 = s.dp0 := rfl
@[simp] theorem clearCopy_dp1 : (s.clearCopy).dp1 = s.dp1 := rfl
@[simp] theorem clearCopy_dp2 : (s.clearCopy).dp2 = s.dp2 := rfl
@[simp] theorem clearCopy_runState : (s.clearCopy).runState = s.runState := rfl
@[simp] theorem clearCopy_copyPending : (s.clearCopy).copyPending = false := rfl
@[simp] theorem clearCopy_pendingCmd : (s.clearCopy).pendingCmd = s.pendingCmd := rfl
@[simp] theorem clearCopy_creq : (s.clearCopy).creq = s.creq := rfl
@[simp] theorem clearCopy_cadj : (s.clearCopy).cadj = s.cadj := rfl
@[simp] theorem clearCopy_cmdq : (s.clearCopy).cmdq = s.cmdq := rfl
@[simp] theorem clearCopy_cmdqLen : (s.clearCopy).cmdqLen = s.cmdqLen := rfl
@[simp] theorem clearCopy_ts1 : (s.clearCopy).ts1 = s.ts1 := rfl
@[simp] theorem clearCopy_ts3 : (s.clearCopy).ts3 = s.ts3 := rfl
@[simp] theorem clearCopy_ph : (s.clearCopy).ph = s.ph := rfl
@[simp] theorem clearCopy_sf : (s.clearCopy).sf = s.sf := rfl
@[simp] theorem clearCopy_sdo : (s.clearCopy).sdo = s.sdo := rfl
@[simp] theorem clearCopy_sck : (s.clearCopy).sck = s.sck := rfl
@[simp] theorem clearCopy_dc : (s.clearCopy).dc = s.dc := rfl
@[simp] theorem clearCopy_cs : (s.clearCopy).cs = s.cs := rfl
@[simp] theorem clearCopy_res : (s.clearCopy).res = s.res := rfl
@[simp] theorem clearCopy_hop : (s.clearCopy).hop = s.hop := rfl
@[simp] theorem clearCopy_hph : (s.clearCopy).hph = s.hph := rfl
@[simp] theorem clearCopy_busLog : (s.clearCopy).busLog = s.busLog := rfl
@[simp] theorem clearCopy_cfg : (s.clearCopy).cfg = s.cfg := rfl
@[simp] theorem clearCopy_now : (s.clearCopy).now = s.now := rfl
@[simp] theorem clearCopy_hostIn : (s.clearCopy).hostIn = s.hostIn := rfl
@[simp] theorem clearCopy_responses : (s.clearCopy).responses = s.responses := rfl
@[simp] theorem clearCopy_pph : (s.clearCopy).pph = s.pph := rfl
@[simp] theorem clearCopy_waitLeft : (s.clearCopy).waitLeft = s.waitLeft := rfl
@[simp] theorem clearCopy_hostTx : (s.clearCopy).hostTx = s.hostTx := rfl
@[simp] theorem clearCopy_pumpTx : (s.clearCopy).pumpTx = s.pumpTx := rfl
@[simp] theorem clearCopy_turn : (s.clearCopy).turn = s.turn := rfl
@[simp] theorem clearCopy_sched : (s.clearCopy).sched = s.sched := rfl
@[simp] theorem clearCopy_draws : (s.clearCopy).draws = s.draws := rfl

/-! ### setCreq -/
@[simp] theorem setCreq_la (l : Byte) : (s.setCreq l).la = s.la := rfl
@[simp] theorem setCreq_lb (l : Byte) : (s.setCreq l).lb = s.lb := rfl
@[simp] theorem setCreq_dp0 (l : Byte) : (s.setCreq l).dp0 = s.dp0 := rfl
@[simp] theorem setCreq_dp1 (l : Byte) : (s.setCreq l).dp1 = s.dp1 := rfl
@[simp] theorem setCreq_dp2 (l : Byte) : (s.setCreq l).dp2 = s.dp2 := rfl
@[simp] theorem setCreq_runState (l : Byte) : (s.setCreq l).runState = s.runState := rfl
@[simp] theorem setCreq_copyPending (l : Byte) : (s.setCreq l).copyPending = s.copyPending := rfl
@[simp] theorem setCreq_pendingCmd (l : Byte) : (s.setCreq l).pendingCmd = s.pendingCmd := rfl
@[simp] theorem setCreq_creq (l : Byte) : (s.setCreq l).creq = some l := rfl
@[simp] theorem setCreq_cadj (l : Byte) : (s.setCreq l).cadj = s.cadj := rfl
@[simp] theorem setCreq_cmdq (l : Byte) : (s.setCreq l).cmdq = s.cmdq := rfl
@[simp] theorem setCreq_cmdqLen (l : Byte) : (s.setCreq l).cmdqLen = s.cmdqLen := rfl
@[simp] theorem setCreq_ts1 (l : Byte) : (s.setCreq l).ts1 = s.ts1 := rfl
@[simp] theorem setCreq_ts3 (l : Byte) : (s.setCreq l).ts3 = s.ts3 := rfl
@[simp] theorem setCreq_ph (l : Byte) : (s.setCreq l).ph = s.ph := rfl
@[simp] theorem setCreq_sf (l : Byte) : (s.setCreq l).sf = s.sf := rfl
@[simp] theorem setCreq_sdo (l : Byte) : (s.setCreq l).sdo = s.sdo := rfl
@[simp] theorem setCreq_sck (l : Byte) : (s.setCreq l).sck = s.sck := rfl
@[simp] theorem setCreq_dc (l : Byte) : (s.setCreq l).dc = s.dc := rfl
@[simp] theorem setCreq_cs (l : Byte) : (s.setCreq l).cs = s.cs := rfl
@[simp] theorem setCreq_res (l : Byte) : (s.setCreq l).res = s.res := rfl
@[simp] theorem setCreq_hop (l : Byte) : (s.setCreq l).hop = s.hop := rfl
@[simp] theorem setCreq_hph (l : Byte) : (s.setCreq l).hph = s.hph := rfl
@[simp] theorem setCreq_busLog (l : Byte) : (s.setCreq l).busLog = s.busLog := rfl
@[simp] theorem setCreq_cfg (l : Byte) : (s.setCreq l).cfg = s.cfg := rfl
@[simp] theorem setCreq_now (l : Byte) : (s.setCreq l).now = s.now := rfl
@[simp] theorem setCreq_hostIn (l : Byte) : (s.setCreq l).hostIn = s.hostIn := rfl
@[simp] theorem setCreq_responses (l : Byte) : (s.setCreq l).responses = s.responses := rfl
@[simp] theorem setCreq_pph (l : Byte) : (s.setCreq l).pph = s.pph := rfl
@[simp] theorem setCreq_waitLeft (l : Byte) : (s.setCreq l).waitLeft = s.waitLeft := rfl
@[simp] theorem setCreq_hostTx (l : Byte) : (s.setCreq l).hostTx = s.hostTx := rfl
@[simp] theorem setCreq_pumpTx (l : Byte) : (s.setCreq l).pumpTx = s.pumpTx := rfl
@[simp] theorem setCreq_turn (l : Byte) : (s.setCreq l).turn = s.turn := rfl
@[simp] theorem setCreq_sched (l : Byte) : (s.setCreq l).sched = s.sched := rfl
@[simp] theorem setCreq_draws (l : Byte) : (s.setCreq l).draws = s.draws := rfl

/-! ### clearCreq -/
@[simp] theorem clearCreq_la : (s.clearCreq).la = s.la := rfl
@[simp] theorem clearCreq_lb : (s.clearCreq).lb = s.lb := rfl
@[simp] theorem clearCreq_dp0 : (s.clearCreq).dp0 = s.dp0 := rfl
@[simp] theorem clearCreq_dp1 : (s.clearCreq).dp1 = s.dp1 := rfl
@[simp] theorem clearCreq_dp2 : (s.clearCreq).dp2 = s.dp2 := rfl
@[simp] theorem clearCreq_runState : (s.clearCreq).runState = s.runState := rfl
@[simp] theorem clearCreq_copyPending : (s.clearCreq).copyPending = s.copyPending := rfl
@[simp] theorem clearCreq_pendingCmd : (s.clearCreq).pendingCmd = s.pendingCmd := rfl
@[simp] theorem clearCreq_creq : (s.clearCreq).creq = none := rfl
@[simp] theorem clearCreq_cadj : (s.clearCreq).cadj = s.cadj := rfl
@[simp] theorem clearCreq_cmdq : (s.clearCreq).cmdq = s.cmdq := rfl
@[simp] theorem clearCreq_cmdqLen : (s.clearCreq).cmdqLen = s.cmdqLen := rfl
@[simp] theorem clearCreq_ts1 : (s.clearCreq).ts1 = s.ts1 := rfl
@[simp] theorem clearCreq_ts3 : (s.clearCreq).ts3 = s.ts3 := rfl
@[simp] theorem clearCreq_ph : (s.clearCreq).ph = s.ph := rfl
@[simp] theorem clearCreq_sf : (s.clearCreq).sf = s.sf := rfl
@[simp] theorem clearCreq_sdo : (s.clearCreq).sdo = s.sdo := rfl
@[simp] theorem clearCreq_sck : (s.clearCreq).sck = s.sck := rfl
@[simp] theorem clearCreq_dc : (s.clearCreq).dc = s.dc := rfl
@[simp] theorem clearCreq_cs : (s.clearCreq).cs = s.cs := rfl
@[simp] theorem clearCreq_res : (s.clearCreq).res = s.res := rfl
@[simp] theorem clearCreq_hop : (s.clearCreq).hop = s.hop := rfl
@[simp] theorem clearCreq_hph : (s.clearCreq).hph = s.hph := rfl
@[simp] theorem clearCreq_busLog : (s.clearCreq).busLog = s.busLog := rfl
@[simp] theorem clearCreq_cfg : (s.clearCreq).cfg = s.cfg := rfl
@[simp] theorem clearCreq_now : (s.clearCreq).now = s.now := rfl
@[simp] theorem clearCreq_hostIn : (s.clearCreq).hostIn = s.hostIn := rfl
@[simp] theorem clearCreq_responses : (s.clearCreq).responses = s.responses := rfl
@[simp] theorem clearCreq_pph : (s.clearCreq).pph = s.pph := rfl
@[simp] theorem clearCreq_waitLeft : (s.clearCreq).waitLeft = s.waitLeft := rfl
@[simp] theorem clearCreq_hostTx : (s.clearCreq).hostTx = s.hostTx := rfl
@[simp] theorem clearCreq_pumpTx : (s.clearCreq).pumpTx = s.pumpTx := rfl
@[simp] theorem clearCreq_turn : (s.clearCreq).turn = s.turn := rfl
@[simp] theorem clearCreq_sched : (s.clearCreq).sched = s.sched := rfl
@[simp] theorem clearCreq_draws : (s.clearCreq).draws = s.draws := rfl

/-! ### setCmd -/
@[simp] theorem setCmd_la : (s.setCmd).la = s.la := rfl
@[simp] theorem setCmd_lb : (s.setCmd).lb = s.lb := rfl
@[simp] theorem setCmd_dp0 : (s.setCmd).dp0 = s.dp0 := rfl
@[simp] theorem setCmd_dp1 : (s.setCmd).dp1 = s.dp1 := rfl
@[simp] theorem setCmd_dp2 : (s.setCmd).dp2 = s.dp2 := rfl
@[simp] theorem setCmd_runState : (s.setCmd).runState = s.runState := rfl
@[simp] theorem setCmd_copyPending : (s.setCmd).copyPending = s.copyPending := rfl
@[simp] theorem setCmd_pendingCmd : (s.setCmd).pendingCmd = true := rfl
@[simp] theorem setCmd_creq : (s.setCmd).creq = s.creq := rfl
@[simp] theorem setCmd_cadj : (s.setCmd).cadj = s.cadj := rfl
@[simp] theorem setCmd_cmdq : (s.setCmd).cmdq = s.cmdq := rfl
@[simp] theorem setCmd_cmdqLen : (s.setCmd).cmdqLen = s.cmdqLen := rfl
@[simp] theorem setCmd_ts1 : (s.setCmd).ts1 = s.ts1 := rfl
@[simp] theorem setCmd_ts3 : (s.setCmd).ts3 = s.ts3 := rfl
@[simp] theorem setCmd_ph : (s.setCmd).ph = s.ph := rfl
@[simp] theorem setCmd_sf : (s.setCmd).sf = s.sf := rfl
@[simp] theorem setCmd_sdo : (s.setCmd).sdo = s.sdo := rfl
@[simp] theorem setCmd_sck : (s.setCmd).sck = s.sck := rfl
@[simp] theorem setCmd_dc : (s.setCmd).dc = s.dc := rfl
@[simp] theorem setCmd_cs : (s.setCmd).cs = s.cs := rfl
@[simp] theorem setCmd_res : (s.setCmd).res = s.res := rfl
@[simp] theorem setCmd_hop : (s.setCmd).hop = s.hop := rfl
@[simp] theorem setCmd_hph : (s.setCmd).hph = s.hph := rfl
@[simp] theorem setCmd_busLog : (s.setCmd).busLog = s.busLog := rfl
@[simp] theorem setCmd_cfg : (s.setCmd).cfg = s.cfg := rfl
@[simp] theorem setCmd_now : (s.setCmd).now = s.now := rfl
@[simp] theorem setCmd_hostIn : (s.setCmd).hostIn = s.hostIn := rfl
@[simp] theorem setCmd_responses : (s.setCmd).responses = s.responses := rfl
@[simp] theorem setCmd_pph : (s.setCmd).pph = s.pph := rfl
@[simp] theorem setCmd_waitLeft : (s.setCmd).waitLeft = s.waitLeft := rfl
@[simp] theorem setCmd_hostTx : (s.setCmd).hostTx = s.hostTx := rfl
@[simp] theorem setCmd_pumpTx : (s.setCmd).pumpTx = s.pumpTx := rfl
@[simp] theorem setCmd_turn : (s.setCmd).turn = s.turn := rfl
@[simp] theorem setCmd_sched : (s.setCmd).sched = s.sched := rfl
@[simp] theorem setCmd_draws : (s.setCmd).draws = s.draws := rfl

/-! ### clearCmd -/
@[simp] theorem clearCmd_la : (s.clearCmd).la = s.la := rfl
@[simp] theorem clearCmd_lb : (s.clearCmd).lb = s.lb := rfl
@[simp] theorem clearCmd_dp0 : (s.clearCmd).dp0 = s.dp0 := rfl
@[simp] theorem clearCmd_dp1 : (s.clearCmd).dp1 = s.dp1 := rfl
@[simp] theorem clearCmd_dp2 : (s.clearCmd).dp2 = s.dp2 := rfl
@[simp] theorem clearCmd_runState : (s.clearCmd).runState = s.runState := rfl
@[simp] theorem clearCmd_copyPending : (s.clearCmd).copyPending = s.copyPending := rfl
@[simp] theorem clearCmd_pendingCmd : (s.clearCmd).pendingCmd = false := rfl
@[simp] theorem clearCmd_creq : (s.clearCmd).creq = s.creq := rfl
@[simp] theorem clearCmd_cadj : (s.clearCmd).cadj = s.cadj := rfl
@[simp] theorem clearCmd_cmdq : (s.clearCmd).cmdq = s.cmdq := rfl
@[simp] theorem clearCmd_cmdqLen : (s.clearCmd).cmdqLen = s.cmdqLen := rfl
@[simp] theorem clearCmd_ts1 : (s.clearCmd).ts1 = s.ts1 := rfl
@[simp] theorem clearCmd_ts3 : (s.clearCmd).ts3 = s.ts3 := rfl
@[simp] theorem clearCmd_ph : (s.clearCmd).ph = s.ph := rfl
@[simp] theorem clearCmd_sf : (s.clearCmd).sf = s.sf := rfl
@[simp] theorem clearCmd_sdo : (s.clearCmd).sdo = s.sdo := rfl
@[simp] theorem clearCmd_sck : (s.clearCmd).sck = s.sck := rfl
@[simp] theorem clearCmd_dc : (s.clearCmd).dc = s.dc := rfl
@[simp] theorem clearCmd_cs : (s.clearCmd).cs = s.cs := rfl
@[simp] theorem clearCmd_res : (s.clearCmd).res = s.res := rfl
@[simp] theorem clearCmd_hop : (s.clearCmd).hop = s.hop := rfl
@[simp] theorem clearCmd_hph : (s.clearCmd).hph = s.hph := rfl
@[simp] theorem clearCmd_busLog : (s.clearCmd).busLog = s.busLog := rfl
@[simp] theorem clearCmd_cfg : (s.clearCmd).cfg = s.cfg := rfl
@[simp] theorem clearCmd_now : (s.clearCmd).now = s.now := rfl
@[simp] theorem clearCmd_hostIn : (s.clearCmd).hostIn = s.hostIn := rfl
@[simp] theorem clearCmd_responses : (s.clearCmd).responses = s.responses := rfl
@[simp] theorem clearCmd_pph : (s.clearCmd).pph = s.pph := rfl
@[simp] theorem clearCmd_waitLeft : (s.clearCmd).waitLeft = s.waitLeft := rfl
@[simp] theorem clearCmd_hostTx : (s.clearCmd).hostTx = s.hostTx := rfl
@[simp] theorem clearCmd_pumpTx : (s.clearCmd).pumpTx = s.pumpTx := rfl
@[simp] theorem clearCmd_turn : (s.clearCmd).turn = s.turn := rfl
@[simp] theorem clearCmd_sched : (s.clearCmd).sched = s.sched := rfl
@[simp] theorem clearCmd_draws : (s.clearCmd).draws = s.draws := rfl

/-! ### recomputed -/
@[simp] theorem recomputed_la (c : Cadj) : (s.recomputed c).la = s.la := rfl
@[simp] theorem recomputed_lb (c : Cadj) : (s.recomputed c).lb = s.lb := rfl
@[simp] theorem recomputed_dp0 (c : Cadj) : (s.recomputed c).dp0 = s.dp0 := rfl
@[simp] theorem recomputed_dp1 (c : Cadj) : (s.recomputed c).dp1 = s.dp1 := rfl
@[simp] theorem recomputed_dp2 (c : Cadj) : (s.recomputed c).dp2 = s.dp2 := rfl
@[simp] theorem recomputed_runState (c : Cadj) : (s.recomputed c).runState = s.runState := rfl
@[simp] theorem recomputed_copyPending (c : Cadj) : (s.recomputed c).copyPending = s.copyPending := rfl
@[simp] theorem recomputed_pendingCmd (c : Cadj) : (s.recomputed c).pendingCmd = s.pendingCmd := rfl
@[simp] theorem recomputed_creq (c : Cadj) : (s.recomputed c).creq = s.creq := rfl
@[simp] theorem recomputed_cadj (c : Cadj) : (s.recomputed c).cadj = c := rfl
@[simp] theorem recomputed_cmdq (c : Cadj) : (s.recomputed c).cmdq = s.cmdq := rfl
@[simp] theorem recomputed_cmdqLen (c : Cadj) : (s.recomputed c).cmdqLen = s.cmdqLen := rfl
@[simp] theorem recomputed_ts1 (c : Cadj) : (s.recomputed c).ts1 = s.ts1 := rfl
@[simp] theorem recomputed_ts3 (c : Cadj) : (s.recomputed c).ts3 = s.ts3 := rfl
@[simp] theorem recomputed_ph (c : Cadj) : (s.recomputed c).ph = s.ph := rfl
@[simp] theorem recomputed_sf (c : Cadj) : (s.recomputed c).sf = s.sf := rfl
@[simp] theorem recomputed_sdo (c : Cadj) : (s.recomputed c).sdo = s.sdo := rfl
@[simp] theorem recomputed_sck (c : Cadj) : (s.recomputed c).sck = s.sck := rfl
@[simp] theorem recomputed_dc (c : Cadj) : (s.recomputed c).dc = s.dc := rfl
@[simp] theorem recomputed_cs (c : Cadj) : (s.recomputed c).cs = s.cs := rfl
@[simp] theorem recomputed_res (c : Cadj) : (s.recomputed c).res = s.res := rfl
@[simp] theorem recomputed_hop (c : Cadj) : (s.recomputed c).hop = s.hop := rfl
@[simp] theorem recomputed_hph (c : Cadj) : (s.recomputed c).hph = s.hph := rfl
@[simp] theorem recomputed_busLog (c : Cadj) : (s.recomputed c).busLog = s.busLog := rfl
@[simp] theorem recomputed_cfg (c : Cadj) : (s.recomputed c).cfg = s.cfg := rfl
@[simp] theorem recomputed_now (c : Cadj) : (s.recomputed c).now = s.now := rfl
@[simp] theorem recomputed_hostIn (c : Cadj) : (s.recomputed c).hostIn = s.hostIn := rfl
@[simp] theorem recomputed_responses (c : Cadj) : (s.recomputed c).responses = s.responses := rfl
@[simp] theorem recomputed_pph (c : Cadj) : (s.recomputed c).pph = s.pph := rfl
@[simp] theorem recomputed_waitLeft (c : Cadj) : (s.recomputed c).waitLeft = s.waitLeft := rfl
@[simp] theorem recomputed_hostTx (c : Cadj) : (s.recomputed c).hostTx = s.hostTx := rfl
@[simp] theorem recomputed_pumpTx (c : Cadj) : (s.recomputed c).pumpTx = s.pumpTx := rfl
@[simp] theorem recomputed_turn (c : Cadj) : (s.recomputed c).turn = s.turn := rfl
@[simp] theorem recomputed_sched (c : Cadj) : (s.recomputed c).sched = s.sched := rfl
@[simp] theorem recomputed_draws (c : Cadj) : (s.recomputed c).draws = s.draws := rfl

/-! ### writeQueue -/
@[simp] theorem writeQueue_la (bs : List Byte) : (s.writeQueue bs).la = s.la := rfl
@[simp] theorem writeQueue_lb (bs : List Byte) : (s.writeQueue bs).lb = s.lb := rfl
@[simp] theorem writeQueue_dp0 (bs : List Byte) : (s.writeQueue bs).dp0 = s.dp0 := rfl
@[simp] theorem writeQueue_dp1 (bs : List Byte) : (s.writeQueue bs).dp1 = s.dp1 := rfl
@[simp] theorem writeQueue_dp2 (bs : List Byte) : (s.writeQueue bs).dp2 = s.dp2 := rfl
@[simp] theorem writeQueue_runState (bs : List Byte) : (s.writeQueue bs).runState = s.runState := rfl
@[simp] theorem writeQueue_copyPending (bs : List Byte) : (s.writeQueue bs).copyPending = s.copyPending := rfl
@[simp] theorem writeQueue_pendingCmd (bs : List Byte) : (s.writeQueue bs).pendingCmd = s.pendingCmd := rfl
@[simp] theorem writeQueue_creq (bs : List Byte) : (s.writeQueue bs).creq = s.creq := rfl
@[simp] theorem writeQueue_cadj (bs : List Byte) : (s.writeQueue bs).cadj = s.cadj := rfl
@[simp] theorem writeQueue_cmdq (bs : List Byte) : (s.writeQueue bs).cmdq = bs ++ s.cmdq.drop bs.length := rfl
@[simp] theorem writeQueue_cmdqLen (bs : List Byte) : (s.writeQueue bs).cmdqLen = BitVec.ofNat 8 bs.length := rfl
@[simp] theorem writeQueue_ts1 (bs : List Byte) : (s.writeQueue bs).ts1 = s.ts1 := rfl
@[simp] theorem writeQueue_ts3 (bs : List Byte) : (s.writeQueue bs).ts3 = s.ts3 := rfl
@[simp] theorem writeQueue_ph (bs : List Byte) : (s.writeQueue bs).ph = s.ph := rfl
@[simp] theorem writeQueue_sf (bs : List Byte) : (s.writeQueue bs).sf = s.sf := rfl
@[simp] theorem writeQueue_sdo (bs : List Byte) : (s.writeQueue bs).sdo = s.sdo := rfl
@[simp] theorem writeQueue_sck (bs : List Byte) : (s.writeQueue bs).sck = s.sck := rfl
@[simp] theorem writeQueue_dc (bs : List Byte) : (s.writeQueue bs).dc = s.dc := rfl
@[simp] theorem writeQueue_cs (bs : List Byte) : (s.writeQueue bs).cs = s.cs := rfl
@[simp] theorem writeQueue_res (bs : List Byte) : (s.writeQueue bs).res = s.res := rfl
@[simp] theorem writeQueue_hop (bs : List Byte) : (s.writeQueue bs).hop = s.hop := rfl
@[simp] theorem writeQueue_hph (bs : List Byte) : (s.writeQueue bs).hph = s.hph := rfl
@[simp] theorem writeQueue_busLog (bs : List Byte) : (s.writeQueue bs).busLog = s.busLog := rfl
@[simp] theorem writeQueue_cfg (bs : List Byte) : (s.writeQueue bs).cfg = s.cfg := rfl
@[simp] theorem writeQueue_now (bs : List Byte) : (s.writeQueue bs).now = s.now := rfl
@[simp] theorem writeQueue_hostIn (bs : List Byte) : (s.writeQueue bs).hostIn = s.hostIn := rfl
@[simp] theorem writeQueue_responses (bs : List Byte) : (s.writeQueue bs).responses = s.responses := rfl
@[simp] theorem writeQueue_pph (bs : List Byte) : (s.writeQueue bs).pph = s.pph := rfl
@[simp] theorem writeQueue_waitLeft (bs : List Byte) : (s.writeQueue bs).waitLeft = s.waitLeft := rfl
@[simp] theorem writeQueue_hostTx (bs : List Byte) : (s.writeQueue bs).hostTx = s.hostTx := rfl
@[simp] theorem writeQueue_pumpTx (bs : List Byte) : (s.writeQueue bs).pumpTx = s.pumpTx := rfl
@[simp] theorem writeQueue_turn (bs : List Byte) : (s.writeQueue bs).turn = s.turn := rfl
@[simp] theorem writeQueue_sched (bs : List Byte) : (s.writeQueue bs).sched = s.sched := rfl
@[simp] theorem writeQueue_draws (bs : List Byte) : (s.writeQueue bs).draws = s.draws := rfl

/-! ### fillPlanes -/
@[simp] theorem fillPlanes_la (sh : BitVec 2) : (s.fillPlanes sh).la = Memory.ofFn (fun _ => solidByte (shadeA sh)) := rfl
@[simp] theorem fillPlanes_lb (sh : BitVec 2) : (s.fillPlanes sh).lb = Memory.ofFn (fun _ => solidByte (shadeB sh)) := rfl
@[simp] theorem fillPlanes_dp0 (sh : BitVec 2) : (s.fillPlanes sh).dp0 = s.dp0 := rfl
@[simp] theorem fillPlanes_dp1 (sh : BitVec 2) : (s.fillPlanes sh).dp1 = s.dp1 := rfl
@[simp] theorem fillPlanes_dp2 (sh : BitVec 2) : (s.fillPlanes sh).dp2 = s.dp2 := rfl
@[simp] theorem fillPlanes_runState (sh : BitVec 2) : (s.fillPlanes sh).runState = s.runState := rfl
@[simp] theorem fillPlanes_copyPending (sh : BitVec 2) : (s.fillPlanes sh).copyPending = s.copyPending := rfl
@[simp] theorem fillPlanes_pendingCmd (sh : BitVec 2) : (s.fillPlanes sh).pendingCmd = s.pendingCmd := rfl
@[simp] theorem fillPlanes_creq (sh : BitVec 2) : (s.fillPlanes sh).creq = s.creq := rfl
@[simp] theorem fillPlanes_cadj (sh : BitVec 2) : (s.fillPlanes sh).cadj = s.cadj := rfl
@[simp] theorem fillPlanes_cmdq (sh : BitVec 2) : (s.fillPlanes sh).cmdq = s.cmdq := rfl
@[simp] theorem fillPlanes_cmdqLen (sh : BitVec 2) : (s.fillPlanes sh).cmdqLen = s.cmdqLen := rfl
@[simp] theorem fillPlanes_ts1 (sh : BitVec 2) : (s.fillPlanes sh).ts1 = s.ts1 := rfl
@[simp] theorem fillPlanes_ts3 (sh : BitVec 2) : (s.fillPlanes sh).ts3 = s.ts3 := rfl
@[simp] theorem fillPlanes_ph (sh : BitVec 2) : (s.fillPlanes sh).ph = s.ph := rfl
@[simp] theorem fillPlanes_sf (sh : BitVec 2) : (s.fillPlanes sh).sf = s.sf := rfl
@[simp] theorem fillPlanes_sdo (sh : BitVec 2) : (s.fillPlanes sh).sdo = s.sdo := rfl
@[simp] theorem fillPlanes_sck (sh : BitVec 2) : (s.fillPlanes sh).sck = s.sck := rfl
@[simp] theorem fillPlanes_dc (sh : BitVec 2) : (s.fillPlanes sh).dc = s.dc := rfl
@[simp] theorem fillPlanes_cs (sh : BitVec 2) : (s.fillPlanes sh).cs = s.cs := rfl
@[simp] theorem fillPlanes_res (sh : BitVec 2) : (s.fillPlanes sh).res = s.res := rfl
@[simp] theorem fillPlanes_hop (sh : BitVec 2) : (s.fillPlanes sh).hop = s.hop := rfl
@[simp] theorem fillPlanes_hph (sh : BitVec 2) : (s.fillPlanes sh).hph = s.hph := rfl
@[simp] theorem fillPlanes_busLog (sh : BitVec 2) : (s.fillPlanes sh).busLog = s.busLog := rfl
@[simp] theorem fillPlanes_cfg (sh : BitVec 2) : (s.fillPlanes sh).cfg = s.cfg := rfl
@[simp] theorem fillPlanes_now (sh : BitVec 2) : (s.fillPlanes sh).now = s.now := rfl
@[simp] theorem fillPlanes_hostIn (sh : BitVec 2) : (s.fillPlanes sh).hostIn = s.hostIn := rfl
@[simp] theorem fillPlanes_responses (sh : BitVec 2) : (s.fillPlanes sh).responses = s.responses := rfl
@[simp] theorem fillPlanes_pph (sh : BitVec 2) : (s.fillPlanes sh).pph = s.pph := rfl
@[simp] theorem fillPlanes_waitLeft (sh : BitVec 2) : (s.fillPlanes sh).waitLeft = s.waitLeft := rfl
@[simp] theorem fillPlanes_hostTx (sh : BitVec 2) : (s.fillPlanes sh).hostTx = s.hostTx := rfl
@[simp] theorem fillPlanes_pumpTx (sh : BitVec 2) : (s.fillPlanes sh).pumpTx = s.pumpTx := rfl
@[simp] theorem fillPlanes_turn (sh : BitVec 2) : (s.fillPlanes sh).turn = s.turn := rfl
@[simp] theorem fillPlanes_sched (sh : BitVec 2) : (s.fillPlanes sh).sched = s.sched := rfl
@[simp] theorem fillPlanes_draws (sh : BitVec 2) : (s.fillPlanes sh).draws = s.draws := rfl

/-! ### plotPixel -/
@[simp] theorem plotPixel_la (x y : Nat) (sh : BitVec 2) : (s.plotPixel x y sh).la = s.la.write (pixelIndex x y) (putMask (s.la.byteAt (pixelIndex x y)) (pixelMask y) (shadeA sh)) := rfl
@[simp] theorem plotPixel_lb (x y : Nat) (sh : BitVec 2) : (s.plotPixel x y sh).lb = s.lb.write (pixelIndex x y) (putMask (s.lb.byteAt (pixelIndex x y)) (pixelMask y) (shadeB sh)) := rfl
@[simp] theorem plotPixel_dp0 (x y : Nat) (sh : BitVec 2) : (s.plotPixel x y sh).dp0 = s.dp0 := rfl
@[simp] theorem plotPixel_dp1 (x y : Nat) (sh : BitVec 2) : (s.plotPixel x y sh).dp1 = s.dp1 := rfl
@[simp] theorem plotPixel_dp2 (x y : Nat) (sh : BitVec 2) : (s.plotPixel x y sh).dp2 = s.dp2 := rfl
@[simp] theorem plotPixel_runState (x y : Nat) (sh : BitVec 2) : (s.plotPixel x y sh).runState = s.runState := rfl
@[simp] theorem plotPixel_copyPending (x y : Nat) (sh : BitVec 2) : (s.plotPixel x y sh).copyPending = s.copyPending := rfl
@[simp] theorem plotPixel_pendingCmd (x y : Nat) (sh : BitVec 2) : (s.plotPixel x y sh).pendingCmd = s.pendingCmd := rfl
@[simp] theorem plotPixel_creq (x y : Nat) (sh : BitVec 2) : (s.plotPixel x y sh).creq = s.creq := rfl
@[simp] theorem plotPixel_cadj (x y : Nat) (sh : BitVec 2) : (s.plotPixel x y sh).cadj = s.cadj := rfl
@[simp] theorem plotPixel_cmdq (x y : Nat) (sh : BitVec 2) : (s.plotPixel x y sh).cmdq = s.cmdq := rfl
@[simp] theorem plotPixel_cmdqLen (x y : Nat) (sh : BitVec 2) : (s.plotPixel x y sh).cmdqLen = s.cmdqLen := rfl
@[simp] theorem plotPixel_ts1 (x y : Nat) (sh : BitVec 2) : (s.plotPixel x y sh).ts1 = s.ts1 := rfl
@[simp] theorem plotPixel_ts3 (x y : Nat) (sh : BitVec 2) : (s.plotPixel x y sh).ts3 = s.ts3 := rfl
@[simp] theorem plotPixel_ph (x y : Nat) (sh : BitVec 2) : (s.plotPixel x y sh).ph = s.ph := rfl
@[simp] theorem plotPixel_sf (x y : Nat) (sh : BitVec 2) : (s.plotPixel x y sh).sf = s.sf := rfl
@[simp] theorem plotPixel_sdo (x y : Nat) (sh : BitVec 2) : (s.plotPixel x y sh).sdo = s.sdo := rfl
@[simp] theorem plotPixel_sck (x y : Nat) (sh : BitVec 2) : (s.plotPixel x y sh).sck = s.sck := rfl
@[simp] theorem plotPixel_dc (x y : Nat) (sh : BitVec 2) : (s.plotPixel x y sh).dc = s.dc := rfl
@[simp] theorem plotPixel_cs (x y : Nat) (sh : BitVec 2) : (s.plotPixel x y sh).cs = s.cs := rfl
@[simp] theorem plotPixel_res (x y : Nat) (sh : BitVec 2) : (s.plotPixel x y sh).res = s.res := rfl
@[simp] theorem plotPixel_hop (x y : Nat) (sh : BitVec 2) : (s.plotPixel x y sh).hop = s.hop := rfl
@[simp] theorem plotPixel_hph (x y : Nat) (sh : BitVec 2) : (s.plotPixel x y sh).hph = s.hph := rfl
@[simp] theorem plotPixel_busLog (x y : Nat) (sh : BitVec 2) : (s.plotPixel x y sh).busLog = s.busLog := rfl
@[simp] theorem plotPixel_cfg (x y : Nat) (sh : BitVec 2) : (s.plotPixel x y sh).cfg = s.cfg := rfl
@[simp] theorem plotPixel_now (x y : Nat) (sh : BitVec 2) : (s.plotPixel x y sh).now = s.now := rfl
@[simp] theorem plotPixel_hostIn (x y : Nat) (sh : BitVec 2) : (s.plotPixel x y sh).hostIn = s.hostIn := rfl
@[simp] theorem plotPixel_responses (x y : Nat) (sh : BitVec 2) : (s.plotPixel x y sh).responses = s.responses := rfl
@[simp] theorem plotPixel_pph (x y : Nat) (sh : BitVec 2) : (s.plotPixel x y sh).pph = s.pph := rfl
@[simp] theorem plotPixel_waitLeft (x y : Nat) (sh : BitVec 2) : (s.plotPixel x y sh).waitLeft = s.waitLeft := rfl
@[simp] theorem plotPixel_hostTx (x y : Nat) (sh : BitVec 2) : (s.plotPixel x y sh).hostTx = s.hostTx := rfl
@[simp] theorem plotPixel_pumpTx (x y : Nat) (sh : BitVec 2) : (s.plotPixel x y sh).pumpTx = s.pumpTx := rfl
@[simp] theorem plotPixel_turn (x y : Nat) (sh : BitVec 2) : (s.plotPixel x y sh).turn = s.turn := rfl
@[simp] theorem plotPixel_sched (x y : Nat) (sh : BitVec 2) : (s.plotPixel x y sh).sched = s.sched := rfl
@[simp] theorem plotPixel_draws (x y : Nat) (sh : BitVec 2) : (s.plotPixel x y sh).draws = s.draws := rfl

/-! ### composeAll -/
@[simp] theorem composeAll_la : (s.composeAll).la = s.la := rfl
@[simp] theorem composeAll_lb : (s.composeAll).lb = s.lb := rfl
@[simp] theorem composeAll_dp0 : (s.composeAll).dp0 = Memory.ofFn (fun i => s.la.byteAt i ||| s.lb.byteAt i) := rfl
@[simp] theorem composeAll_dp1 : (s.composeAll).dp1 = Memory.ofFn (fun i => s.lb.byteAt i) := rfl
@[simp] theorem composeAll_dp2 : (s.composeAll).dp2 = Memory.ofFn (fun i => s.la.byteAt i &&& s.lb.byteAt i) := rfl
@[simp] theorem composeAll_runState : (s.composeAll).runState = s.runState := rfl
@[simp] theorem composeAll_copyPending : (s.composeAll).copyPending = s.copyPending := rfl
@[simp] theorem composeAll_pendingCmd : (s.composeAll).pendingCmd = s.pendingCmd := rfl
@[simp] theorem composeAll_creq : (s.composeAll).creq = s.creq := rfl
@[simp] theorem composeAll_cadj : (s.composeAll).cadj = s.cadj := rfl
@[simp] theorem composeAll_cmdq : (s.composeAll).cmdq = s.cmdq := rfl
@[simp] theorem composeAll_cmdqLen : (s.composeAll).cmdqLen = s.cmdqLen := rfl
@[simp] theorem composeAll_ts1 : (s.composeAll).ts1 = s.ts1 := rfl
@[simp] theorem composeAll_ts3 : (s.composeAll).ts3 = s.ts3 := rfl
@[simp] theorem composeAll_ph : (s.composeAll).ph = s.ph := rfl
@[simp] theorem composeAll_sf : (s.composeAll).sf = s.sf := rfl
@[simp] theorem composeAll_sdo : (s.composeAll).sdo = s.sdo := rfl
@[simp] theorem composeAll_sck : (s.composeAll).sck = s.sck := rfl
@[simp] theorem composeAll_dc : (s.composeAll).dc = s.dc := rfl
@[simp] theorem composeAll_cs : (s.composeAll).cs = s.cs := rfl
@[simp] theorem composeAll_res : (s.composeAll).res = s.res := rfl
@[simp] theorem composeAll_hop : (s.composeAll).hop = s.hop := rfl
@[simp] theorem composeAll_hph : (s.composeAll).hph = s.hph := rfl
@[simp] theorem composeAll_busLog : (s.composeAll).busLog = s.busLog := rfl
@[simp] theorem composeAll_cfg : (s.composeAll).cfg = s.cfg := rfl
@[simp] theorem composeAll_now : (s.composeAll).now = s.now := rfl
@[simp] theorem composeAll_hostIn : (s.composeAll).hostIn = s.hostIn := rfl
@[simp] theorem composeAll_responses : (s.composeAll).responses = s.responses := rfl
@[simp] theorem composeAll_pph : (s.composeAll).pph = s.pph := rfl
@[simp] theorem composeAll_waitLeft : (s.composeAll).waitLeft = s.waitLeft := rfl
@[simp] theorem composeAll_hostTx : (s.composeAll).hostTx = s.hostTx := rfl
@[simp] theorem composeAll_pumpTx : (s.composeAll).pumpTx = s.pumpTx := rfl
@[simp] theorem composeAll_turn : (s.composeAll).turn = s.turn := rfl
@[simp] theorem composeAll_sched : (s.composeAll).sched = s.sched := rfl
@[simp] theorem composeAll_draws : (s.composeAll).draws = s.draws := rfl

/-! ### putDerived -/
@[simp] theorem putDerived_la (i : Nat) (a b : Byte) : (s.putDerived i a b).la = s.la := rfl
@[simp] theorem putDerived_lb (i : Nat) (a b : Byte) : (s.putDerived i a b).lb = s.lb := rfl
@[simp] theorem putDerived_dp0 (i : Nat) (a b : Byte) : (s.putDerived i a b).dp0 = s.dp0.write i (a ||| b) := rfl
@[simp] theorem putDerived_dp1 (i : Nat) (a b : Byte) : (s.putDerived i a b).dp1 = s.dp1.write i b := rfl
@[simp] theorem putDerived_dp2 (i : Nat) (a b : Byte) : (s.putDerived i a b).dp2 = s.dp2.write i (a &&& b) := rfl
@[simp] theorem putDerived_runState (i : Nat) (a b : Byte) : (s.putDerived i a b).runState = s.runState := rfl
@[simp] theorem putDerived_copyPending (i : Nat) (a b : Byte) : (s.putDerived i a b).copyPending = s.copyPending := rfl
@[simp] theorem putDerived_pendingCmd (i : Nat) (a b : Byte) : (s.putDerived i a b).pendingCmd = s.pendingCmd := rfl
@[simp] theorem putDerived_creq (i : Nat) (a b : Byte) : (s.putDerived i a b).creq = s.creq := rfl
@[simp] theorem putDerived_cadj (i : Nat) (a b : Byte) : (s.putDerived i a b).cadj = s.cadj := rfl
@[simp] theorem putDerived_cmdq (i : Nat) (a b : Byte) : (s.putDerived i a b).cmdq = s.cmdq := rfl
@[simp] theorem putDerived_cmdqLen (i : Nat) (a b : Byte) : (s.putDerived i a b).cmdqLen = s.cmdqLen := rfl
@[simp] theorem putDerived_ts1 (i : Nat) (a b : Byte) : (s.putDerived i a b).ts1 = s.ts1 := rfl
@[simp] theorem putDerived_ts3 (i : Nat) (a b : Byte) : (s.putDerived i a b).ts3 = s.ts3 := rfl
@[simp] theorem putDerived_ph (i : Nat) (a b : Byte) : (s.putDerived i a b).ph = s.ph := rfl
@[simp] theorem putDerived_sf (i : Nat) (a b : Byte) : (s.putDerived i a b).sf = s.sf := rfl
@[simp] theorem putDerived_sdo (i : Nat) (a b : Byte) : (s.putDerived i a b).sdo = s.sdo := rfl
@[simp] theorem putDerived_sck (i : Nat) (a b : Byte) : (s.putDerived i a b).sck = s.sck := rfl
@[simp] theorem putDerived_dc (i : Nat) (a b : Byte) : (s.putDerived i a b).dc = s.dc := rfl
@[simp] theorem putDerived_cs (i : Nat) (a b : Byte) : (s.putDerived i a b).cs = s.cs := rfl
@[simp] theorem putDerived_res (i : Nat) (a b : Byte) : (s.putDerived i a b).res = s.res := rfl
@[simp] theorem putDerived_hop (i : Nat) (a b : Byte) : (s.putDerived i a b).hop = s.hop := rfl
@[simp] theorem putDerived_hph (i : Nat) (a b : Byte) : (s.putDerived i a b).hph = s.hph := rfl
@[simp] theorem putDerived_busLog (i : Nat) (a b : Byte) : (s.putDerived i a b).busLog = s.busLog := rfl
@[simp] theorem putDerived_cfg (i : Nat) (a b : Byte) : (s.putDerived i a b).cfg = s.cfg := rfl
@[simp] theorem putDerived_now (i : Nat) (a b : Byte) : (s.putDerived i a b).now = s.now := rfl
@[simp] theorem putDerived_hostIn (i : Nat) (a b : Byte) : (s.putDerived i a b).hostIn = s.hostIn := rfl
@[simp] theorem putDerived_responses (i : Nat) (a b : Byte) : (s.putDerived i a b).responses = s.responses := rfl
@[simp] theorem putDerived_pph (i : Nat) (a b : Byte) : (s.putDerived i a b).pph = s.pph := rfl
@[simp] theorem putDerived_waitLeft (i : Nat) (a b : Byte) : (s.putDerived i a b).waitLeft = s.waitLeft := rfl
@[simp] theorem putDerived_hostTx (i : Nat) (a b : Byte) : (s.putDerived i a b).hostTx = s.hostTx := rfl
@[simp] theorem putDerived_pumpTx (i : Nat) (a b : Byte) : (s.putDerived i a b).pumpTx = s.pumpTx := rfl
@[simp] theorem putDerived_turn (i : Nat) (a b : Byte) : (s.putDerived i a b).turn = s.turn := rfl
@[simp] theorem putDerived_sched (i : Nat) (a b : Byte) : (s.putDerived i a b).sched = s.sched := rfl
@[simp] theorem putDerived_draws (i : Nat) (a b : Byte) : (s.putDerived i a b).draws = s.draws := rfl

/-! ### accept -/
@[simp] theorem accept_la (i : Instr) (rest : List HWord) : (s.accept i rest).la = s.la := rfl
@[simp] theorem accept_lb (i : Instr) (rest : List HWord) : (s.accept i rest).lb = s.lb := rfl
@[simp] theorem accept_dp0 (i : Instr) (rest : List HWord) : (s.accept i rest).dp0 = s.dp0 := rfl
@[simp] theorem accept_dp1 (i : Instr) (rest : List HWord) : (s.accept i rest).dp1 = s.dp1 := rfl
@[simp] theorem accept_dp2 (i : Instr) (rest : List HWord) : (s.accept i rest).dp2 = s.dp2 := rfl
@[simp] theorem accept_runState (i : Instr) (rest : List HWord) : (s.accept i rest).runState = s.runState := rfl
@[simp] theorem accept_copyPending (i : Instr) (rest : List HWord) : (s.accept i rest).copyPending = s.copyPending := rfl
@[simp] theorem accept_pendingCmd (i : Instr) (rest : List HWord) : (s.accept i rest).pendingCmd = s.pendingCmd := rfl
@[simp] theorem accept_creq (i : Instr) (rest : List HWord) : (s.accept i rest).creq = s.creq := rfl
@[simp] theorem accept_cadj (i : Instr) (rest : List HWord) : (s.accept i rest).cadj = s.cadj := rfl
@[simp] theorem accept_cmdq (i : Instr) (rest : List HWord) : (s.accept i rest).cmdq = s.cmdq := rfl
@[simp] theorem accept_cmdqLen (i : Instr) (rest : List HWord) : (s.accept i rest).cmdqLen = s.cmdqLen := rfl
@[simp] theorem accept_ts1 (i : Instr) (rest : List HWord) : (s.accept i rest).ts1 = s.ts1 := rfl
@[simp] theorem accept_ts3 (i : Instr) (rest : List HWord) : (s.accept i rest).ts3 = s.ts3 := rfl
@[simp] theorem accept_ph (i : Instr) (rest : List HWord) : (s.accept i rest).ph = s.ph := rfl
@[simp] theorem accept_sf (i : Instr) (rest : List HWord) : (s.accept i rest).sf = s.sf := rfl
@[simp] theorem accept_sdo (i : Instr) (rest : List HWord) : (s.accept i rest).sdo = s.sdo := rfl
@[simp] theorem accept_sck (i : Instr) (rest : List HWord) : (s.accept i rest).sck = s.sck := rfl
@[simp] theorem accept_dc (i : Instr) (rest : List HWord) : (s.accept i rest).dc = s.dc := rfl
@[simp] theorem accept_cs (i : Instr) (rest : List HWord) : (s.accept i rest).cs = s.cs := rfl
@[simp] theorem accept_res (i : Instr) (rest : List HWord) : (s.accept i rest).res = s.res := rfl
@[simp] theorem accept_hop (i : Instr) (rest : List HWord) : (s.accept i rest).hop = some i := rfl
@[simp] theorem accept_hph (i : Instr) (rest : List HWord) : (s.accept i rest).hph = .issue := rfl
@[simp] theorem accept_busLog (i : Instr) (rest : List HWord) : (s.accept i rest).busLog = s.busLog := rfl
@[simp] theorem accept_cfg (i : Instr) (rest : List HWord) : (s.accept i rest).cfg = s.cfg := rfl
@[simp] theorem accept_now (i : Instr) (rest : List HWord) : (s.accept i rest).now = s.now := rfl
@[simp] theorem accept_hostIn (i : Instr) (rest : List HWord) : (s.accept i rest).hostIn = rest := rfl
@[simp] theorem accept_responses (i : Instr) (rest : List HWord) : (s.accept i rest).responses = s.responses := rfl
@[simp] theorem accept_pph (i : Instr) (rest : List HWord) : (s.accept i rest).pph = s.pph := rfl
@[simp] theorem accept_waitLeft (i : Instr) (rest : List HWord) : (s.accept i rest).waitLeft = s.waitLeft := rfl
@[simp] theorem accept_hostTx (i : Instr) (rest : List HWord) : (s.accept i rest).hostTx = s.hostTx := rfl
@[simp] theorem accept_pumpTx (i : Instr) (rest : List HWord) : (s.accept i rest).pumpTx = s.pumpTx := rfl
@[simp] theorem accept_turn (i : Instr) (rest : List HWord) : (s.accept i rest).turn = s.turn := rfl
@[simp] theorem accept_sched (i : Instr) (rest : List HWord) : (s.accept i rest).sched = s.sched := rfl
@[simp] theorem accept_draws (i : Instr) (rest : List HWord) : (s.accept i rest).draws = s.draws := rfl

/-! ### release -/
@[simp] theorem release_la : (s.release).la = s.la := rfl
@[simp] theorem release_lb : (s.release).lb = s.lb := rfl
@[simp] theorem release_dp0 : (s.release).dp0 = s.dp0 := rfl
@[simp] theorem release_dp1 : (s.release).dp1 = s.dp1 := rfl
@[simp] theorem release_dp2 : (s.release).dp2 = s.dp2 := rfl
@[simp] theorem release_runState : (s.release).runState = .running := rfl
@[simp] theorem release_copyPending : (s.release).copyPending = s.copyPending := rfl
@[simp] theorem release_pendingCmd : (s.release).pendingCmd = s.pendingCmd := rfl
@[simp] theorem release_creq : (s.release).creq = s.creq := rfl
@[simp] theorem release_cadj : (s.release).cadj = s.cadj := rfl
@[simp] theorem release_cmdq : (s.release).cmdq = s.cmdq := rfl
@[simp] theorem release_cmdqLen : (s.release).cmdqLen = s.cmdqLen := rfl
@[simp] theorem release_ts1 : (s.release).ts1 = s.ts1 := rfl
@[simp] theorem release_ts3 : (s.release).ts3 = s.ts3 := rfl
@[simp] theorem release_ph : (s.release).ph = s.ph := rfl
@[simp] theorem release_sf : (s.release).sf = s.sf := rfl
@[simp] theorem release_sdo : (s.release).sdo = s.sdo := rfl
@[simp] theorem release_sck : (s.release).sck = s.sck := rfl
@[simp] theorem release_dc : (s.release).dc = s.dc := rfl
@[simp] theorem release_cs : (s.release).cs = s.cs := rfl
@[simp] theorem release_res : (s.release).res = s.res := rfl
@[simp] theorem release_hop : (s.release).hop = none := rfl
@[simp] theorem release_hph : (s.release).hph = .issue := rfl
@[simp] theorem release_busLog : (s.release).busLog = s.busLog := rfl
@[simp] theorem release_cfg : (s.release).cfg = s.cfg := rfl
@[simp] theorem release_now : (s.release).now = s.now := rfl
@[simp] theorem release_hostIn : (s.release).hostIn = s.hostIn := rfl
@[simp] theorem release_responses : (s.release).responses = s.responses ++ [.done] := rfl
@[simp] theorem release_pph : (s.release).pph = s.pph := rfl
@[simp] theorem release_waitLeft : (s.release).waitLeft = s.waitLeft := rfl
@[simp] theorem release_hostTx : (s.release).hostTx = s.hostTx := rfl
@[simp] theorem release_pumpTx : (s.release).pumpTx = s.pumpTx := rfl
@[simp] theorem release_turn : (s.release).turn = s.turn := rfl
@[simp] theorem release_sched : (s.release).sched = s.sched := rfl
@[simp] theorem release_draws : (s.release).draws = s.draws := rfl

/-! ### requestStop -/
@[simp] theorem requestStop_la : (s.requestStop).la = s.la := rfl
@[simp] theorem requestStop_lb : (s.requestStop).lb = s.lb := rfl
@[simp] theorem requestStop_dp0 : (s.requestStop).dp0 = s.dp0 := rfl
@[simp] theorem requestStop_dp1 : (s.requestStop).dp1 = s.dp1 := rfl
@[simp] theorem requestStop_dp2 : (s.requestStop).dp2 = s.dp2 := rfl
@[simp] theorem requestStop_runState : (s.requestStop).runState = .stopping := rfl
@[simp] theorem requestStop_copyPending : (s.requestStop).copyPending = s.copyPending := rfl
@[simp] theorem requestStop_pendingCmd : (s.requestStop).pendingCmd = s.pendingCmd := rfl
@[simp] theorem requestStop_creq : (s.requestStop).creq = s.creq := rfl
@[simp] theorem requestStop_cadj : (s.requestStop).cadj = s.cadj := rfl
@[simp] theorem requestStop_cmdq : (s.requestStop).cmdq = s.cmdq := rfl
@[simp] theorem requestStop_cmdqLen : (s.requestStop).cmdqLen = s.cmdqLen := rfl
@[simp] theorem requestStop_ts1 : (s.requestStop).ts1 = s.ts1 := rfl
@[simp] theorem requestStop_ts3 : (s.requestStop).ts3 = s.ts3 := rfl
@[simp] theorem requestStop_ph : (s.requestStop).ph = s.ph := rfl
@[simp] theorem requestStop_sf : (s.requestStop).sf = s.sf := rfl
@[simp] theorem requestStop_sdo : (s.requestStop).sdo = s.sdo := rfl
@[simp] theorem requestStop_sck : (s.requestStop).sck = s.sck := rfl
@[simp] theorem requestStop_dc : (s.requestStop).dc = s.dc := rfl
@[simp] theorem requestStop_cs : (s.requestStop).cs = s.cs := rfl
@[simp] theorem requestStop_res : (s.requestStop).res = s.res := rfl
@[simp] theorem requestStop_hop : (s.requestStop).hop = s.hop := rfl
@[simp] theorem requestStop_hph : (s.requestStop).hph = .poll := rfl
@[simp] theorem requestStop_busLog : (s.requestStop).busLog = s.busLog := rfl
@[simp] theorem requestStop_cfg : (s.requestStop).cfg = s.cfg := rfl
@[simp] theorem requestStop_now : (s.requestStop).now = s.now := rfl
@[simp] theorem requestStop_hostIn : (s.requestStop).hostIn = s.hostIn := rfl
@[simp] theorem requestStop_responses : (s.requestStop).responses = s.responses := rfl
@[simp] theorem requestStop_pph : (s.requestStop).pph = s.pph := rfl
@[simp] theorem requestStop_waitLeft : (s.requestStop).waitLeft = s.waitLeft := rfl
@[simp] theorem requestStop_hostTx : (s.requestStop).hostTx = s.hostTx := rfl
@[simp] theorem requestStop_pumpTx : (s.requestStop).pumpTx = s.pumpTx := rfl
@[simp] theorem requestStop_turn : (s.requestStop).turn = s.turn := rfl
@[simp] theorem requestStop_sched : (s.requestStop).sched = s.sched := rfl
@[simp] theorem requestStop_draws : (s.requestStop).draws = s.draws := rfl

/-! ### enterLoop -/
@[simp] theorem enterLoop_la : (s.enterLoop).la = s.la := rfl
@[simp] theorem enterLoop_lb : (s.enterLoop).lb = s.lb := rfl
@[simp] theorem enterLoop_dp0 : (s.enterLoop).dp0 = s.dp0 := rfl
@[simp] theorem enterLoop_dp1 : (s.enterLoop).dp1 = s.dp1 := rfl
@[simp] theorem enterLoop_dp2 : (s.enterLoop).dp2 = s.dp2 := rfl
@[simp] theorem enterLoop_runState : (s.enterLoop).runState = s.runState := rfl
@[simp] theorem enterLoop_copyPending : (s.enterLoop).copyPending = s.copyPending := rfl
@[simp] theorem enterLoop_pendingCmd : (s.enterLoop).pendingCmd = s.pendingCmd := rfl
@[simp] theorem enterLoop_creq : (s.enterLoop).creq = s.creq := rfl
@[simp] theorem enterLoop_cadj : (s.enterLoop).cadj = s.cadj := rfl
@[simp] theorem enterLoop_cmdq : (s.enterLoop).cmdq = s.cmdq := rfl
@[simp] theorem enterLoop_cmdqLen : (s.enterLoop).cmdqLen = s.cmdqLen := rfl
@[simp] theorem enterLoop_ts1 : (s.enterLoop).ts1 = s.ts1 := rfl
@[simp] theorem enterLoop_ts3 : (s.enterLoop).ts3 = s.ts3 := rfl
@[simp] theorem enterLoop_ph : (s.enterLoop).ph = Ph.park := rfl
@[simp] theorem enterLoop_sf : (s.enterLoop).sf = 0 := rfl
@[simp] theorem enterLoop_sdo : (s.enterLoop).sdo = s.sdo := rfl
@[simp] theorem enterLoop_sck : (s.enterLoop).sck = s.sck := rfl
@[simp] theorem enterLoop_dc : (s.enterLoop).dc = s.dc := rfl
@[simp] theorem enterLoop_cs : (s.enterLoop).cs = s.cs := rfl
@[simp] theorem enterLoop_res : (s.enterLoop).res = s.res := rfl
@[simp] theorem enterLoop_hop : (s.enterLoop).hop = s.hop := rfl
@[simp] theorem enterLoop_hph : (s.enterLoop).hph = s.hph := rfl
@[simp] theorem enterLoop_busLog : (s.enterLoop).busLog = s.busLog := rfl
@[simp] theorem enterLoop_cfg : (s.enterLoop).cfg = s.cfg := rfl
@[simp] theorem enterLoop_now : (s.enterLoop).now = s.now := rfl
@[simp] theorem enterLoop_hostIn : (s.enterLoop).hostIn = s.hostIn := rfl
@[simp] theorem enterLoop_responses : (s.enterLoop).responses = s.responses := rfl
@[simp] theorem enterLoop_pph : (s.enterLoop).pph = .start := rfl
@[simp] theorem enterLoop_waitLeft : (s.enterLoop).waitLeft = s.waitLeft := rfl
@[simp] theorem enterLoop_hostTx : (s.enterLoop).hostTx = s.hostTx := rfl
@[simp] theorem enterLoop_pumpTx : (s.enterLoop).pumpTx = s.pumpTx := rfl
@[simp] theorem enterLoop_turn : (s.enterLoop).turn = s.turn := rfl
@[simp] theorem enterLoop_sched : (s.enterLoop).sched = s.sched := rfl
@[simp] theorem enterLoop_draws : (s.enterLoop).draws = s.draws := rfl

/-! ### broughtUp -/
@[simp] theorem broughtUp_la : (s.broughtUp).la = s.la := rfl
@[simp] theorem broughtUp_lb : (s.broughtUp).lb = s.lb := rfl
@[simp] theorem broughtUp_dp0 : (s.broughtUp).dp0 = s.dp0 := rfl
@[simp] theorem broughtUp_dp1 : (s.broughtUp).dp1 = s.dp1 := rfl
@[simp] theorem broughtUp_dp2 : (s.broughtUp).dp2 = s.dp2 := rfl
@[simp] theorem broughtUp_runState : (s.broughtUp).runState = .running := rfl
@[simp] theorem broughtUp_copyPending : (s.broughtUp).copyPending = s.copyPending := rfl
@[simp] theorem broughtUp_pendingCmd : (s.broughtUp).pendingCmd = s.pendingCmd := rfl
@[simp] theorem broughtUp_creq : (s.broughtUp).creq = s.creq := rfl
@[simp] theorem broughtUp_cadj : (s.broughtUp).cadj = s.cadj := rfl
@[simp] theorem broughtUp_cmdq : (s.broughtUp).cmdq = s.cmdq := rfl
@[simp] theorem broughtUp_cmdqLen : (s.broughtUp).cmdqLen = s.cmdqLen := rfl
@[simp] theorem broughtUp_ts1 : (s.broughtUp).ts1 = s.ts1 := rfl
@[simp] theorem broughtUp_ts3 : (s.broughtUp).ts3 = s.ts3 := rfl
@[simp] theorem broughtUp_ph : (s.broughtUp).ph = Ph.park := rfl
@[simp] theorem broughtUp_sf : (s.broughtUp).sf = 0 := rfl
@[simp] theorem broughtUp_sdo : (s.broughtUp).sdo = s.sdo := rfl
@[simp] theorem broughtUp_sck : (s.broughtUp).sck = s.sck := rfl
@[simp] theorem broughtUp_dc : (s.broughtUp).dc = s.dc := rfl
@[simp] theorem broughtUp_cs : (s.broughtUp).cs = s.cs := rfl
@[simp] theorem broughtUp_res : (s.broughtUp).res = s.res := rfl
@[simp] theorem broughtUp_hop : (s.broughtUp).hop = s.hop := rfl
@[simp] theorem broughtUp_hph : (s.broughtUp).hph = s.hph := rfl
@[simp] theorem broughtUp_busLog : (s.broughtUp).busLog = s.busLog := rfl
@[simp] theorem broughtUp_cfg : (s.broughtUp).cfg = s.cfg := rfl
@[simp] theorem broughtUp_now : (s.broughtUp).now = s.now := rfl
@[simp] theorem broughtUp_hostIn : (s.broughtUp).hostIn = s.hostIn := rfl
@[simp] theorem broughtUp_responses : (s.broughtUp).responses = s.responses := rfl
@[simp] theorem broughtUp_pph : (s.broughtUp).pph = .start := rfl
@[simp] theorem broughtUp_waitLeft : (s.broughtUp).waitLeft = s.waitLeft := rfl
@[simp] theorem broughtUp_hostTx : (s.broughtUp).hostTx = s.hostTx := rfl
@[simp] theorem broughtUp_pumpTx : (s.broughtUp).pumpTx = s.pumpTx := rfl
@[simp] theorem broughtUp_turn : (s.broughtUp).turn = s.turn := rfl
@[simp] theorem broughtUp_sched : (s.broughtUp).sched = s.sched := rfl
@[simp] theorem broughtUp_draws : (s.broughtUp).draws = s.draws := rfl

/-! ### sendBurst -/
@[simp] theorem sendBurst_la (d : Bool) (bs : List Byte) (who : Agent) : (s.sendBurst d bs who).la = s.la := by unfold State.sendBurst; split <;> rfl
@[simp] theorem sendBurst_lb (d : Bool) (bs : List Byte) (who : Agent) : (s.sendBurst d bs who).lb = s.lb := by unfold State.sendBurst; split <;> rfl
@[simp] theorem sendBurst_dp0 (d : Bool) (bs : List Byte) (who : Agent) : (s.sendBurst d bs who).dp0 = s.dp0 := by unfold State.sendBurst; split <;> rfl
@[simp] theorem sendBurst_dp1 (d : Bool) (bs : List Byte) (who : Agent) : (s.sendBurst d bs who).dp1 = s.dp1 := by unfold State.sendBurst; split <;> rfl
@[simp] theorem sendBurst_dp2 (d : Bool) (bs : List Byte) (who : Agent) : (s.sendBurst d bs who).dp2 = s.dp2 := by unfold State.sendBurst; split <;> rfl
@[simp] theorem sendBurst_runState (d : Bool) (bs : List Byte) (who : Agent) : (s.sendBurst d bs who).runState = s.runState := by unfold State.sendBurst; split <;> rfl
@[simp] theorem sendBurst_copyPending (d : Bool) (bs : List Byte) (who : Agent) : (s.sendBurst d bs who).copyPending = s.copyPending := by unfold State.sendBurst; split <;> rfl
@[simp] theorem sendBurst_pendingCmd (d : Bool) (bs : List Byte) (who : Agent) : (s.sendBurst d bs who).pendingCmd = s.pendingCmd := by unfold State.sendBurst; split <;> rfl
@[simp] theorem sendBurst_creq (d : Bool) (bs : List Byte) (who : Agent) : (s.sendBurst d bs who).creq = s.creq := by unfold State.sendBurst; split <;> rfl
@[simp] theorem sendBurst_cadj (d : Bool) (bs : List Byte) (who : Agent) : (s.sendBurst d bs who).cadj = s.cadj := by unfold State.sendBurst; split <;> rfl
@[simp] theorem sendBurst_cmdq (d : Bool) (bs : List Byte) (who : Agent) : (s.sendBurst d bs who).cmdq = s.cmdq := by unfold State.sendBurst; split <;> rfl
@[simp] theorem sendBurst_cmdqLen (d : Bool) (bs : List Byte) (who : Agent) : (s.sendBurst d bs who).cmdqLen = s.cmdqLen := by unfold State.sendBurst; split <;> rfl
@[simp] theorem sendBurst_ts1 (d : Bool) (bs : List Byte) (who : Agent) : (s.sendBurst d bs who).ts1 = s.ts1 := by unfold State.sendBurst; split <;> rfl
@[simp] theorem sendBurst_ts3 (d : Bool) (bs : List Byte) (who : Agent) : (s.sendBurst d bs who).ts3 = s.ts3 := by unfold State.sendBurst; split <;> rfl
@[simp] theorem sendBurst_ph (d : Bool) (bs : List Byte) (who : Agent) : (s.sendBurst d bs who).ph = s.ph := by unfold State.sendBurst; split <;> rfl
@[simp] theorem sendBurst_sf (d : Bool) (bs : List Byte) (who : Agent) : (s.sendBurst d bs who).sf = s.sf := by unfold State.sendBurst; split <;> rfl
@[simp] theorem sendBurst_res (d : Bool) (bs : List Byte) (who : Agent) : (s.sendBurst d bs who).res = s.res := by unfold State.sendBurst; split <;> rfl
@[simp] theorem sendBurst_hop (d : Bool) (bs : List Byte) (who : Agent) : (s.sendBurst d bs who).hop = s.hop := by unfold State.sendBurst; split <;> rfl
@[simp] theorem sendBurst_hph (d : Bool) (bs : List Byte) (who : Agent) : (s.sendBurst d bs who).hph = s.hph := by unfold State.sendBurst; split <;> rfl
@[simp] theorem sendBurst_cfg (d : Bool) (bs : List Byte) (who : Agent) : (s.sendBurst d bs who).cfg = s.cfg := by unfold State.sendBurst; split <;> rfl
@[simp] theorem sendBurst_now (d : Bool) (bs : List Byte) (who : Agent) : (s.sendBurst d bs who).now = s.now := by unfold State.sendBurst; split <;> rfl
@[simp] theorem sendBurst_hostIn (d : Bool) (bs : List Byte) (who : Agent) : (s.sendBurst d bs who).hostIn = s.hostIn := by unfold State.sendBurst; split <;> rfl
@[simp] theorem sendBurst_responses (d : Bool) (bs : List Byte) (who : Agent) : (s.sendBurst d bs who).responses = s.responses := by unfold State.sendBurst; split <;> rfl
@[simp] theorem sendBurst_pph (d : Bool) (bs : List Byte) (who : Agent) : (s.sendBurst d bs who).pph = s.pph := by unfold State.sendBurst; split <;> rfl
@[simp] theorem sendBurst_waitLeft (d : Bool) (bs : List Byte) (who : Agent) : (s.sendBurst d bs who).waitLeft = s.waitLeft := by unfold State.sendBurst; split <;> rfl
@[simp] theorem sendBurst_hostTx (d : Bool) (bs : List Byte) (who : Agent) : (s.sendBurst d bs who).hostTx = s.hostTx := by unfold State.sendBurst; split <;> rfl
@[simp] theorem sendBurst_pumpTx (d : Bool) (bs : List Byte) (who : Agent) : (s.sendBurst d bs who).pumpTx = s.pumpTx := by unfold State.sendBurst; split <;> rfl
@[simp] theorem sendBurst_turn (d : Bool) (bs : List Byte) (who : Agent) : (s.sendBurst d bs who).turn = s.turn := by unfold State.sendBurst; split <;> rfl
@[simp] theorem sendBurst_sched (d : Bool) (bs : List Byte) (who : Agent) : (s.sendBurst d bs who).sched = s.sched := by unfold State.sendBurst; split <;> rfl
@[simp] theorem sendBurst_draws (d : Bool) (bs : List Byte) (who : Agent) : (s.sendBurst d bs who).draws = s.draws := by unfold State.sendBurst; split <;> rfl

/-! ### enqueue -/
@[simp] theorem enqueue_la (who : Agent) (fs : List Frame) : (s.enqueue who fs).la = s.la := by cases who <;> rfl
@[simp] theorem enqueue_lb (who : Agent) (fs : List Frame) : (s.enqueue who fs).lb = s.lb := by cases who <;> rfl
@[simp] theorem enqueue_dp0 (who : Agent) (fs : List Frame) : (s.enqueue who fs).dp0 = s.dp0 := by cases who <;> rfl
@[simp] theorem enqueue_dp1 (who : Agent) (fs : List Frame) : (s.enqueue who fs).dp1 = s.dp1 := by cases who <;> rfl
@[simp] theorem enqueue_dp2 (who : Agent) (fs : List Frame) : (s.enqueue who fs).dp2 = s.dp2 := by cases who <;> rfl
@[simp] theorem enqueue_runState (who : Agent) (fs : List Frame) : (s.enqueue who fs).runState = s.runState := by cases who <;> rfl
@[simp] theorem enqueue_copyPending (who : Agent) (fs : List Frame) : (s.enqueue who fs).copyPending = s.copyPending := by cases who <;> rfl
@[simp] theorem enqueue_pendingCmd (who : Agent) (fs : List Frame) : (s.enqueue who fs).pendingCmd = s.pendingCmd := by cases who <;> rfl
@[simp] theorem enqueue_creq (who : Agent) (fs : List Frame) : (s.enqueue who fs).creq = s.creq := by cases who <;> rfl
@[simp] theorem enqueue_cadj (who : Agent) (fs : List Frame) : (s.enqueue who fs).cadj = s.cadj := by cases who <;> rfl
@[simp] theorem enqueue_cmdq (who : Agent) (fs : List Frame) : (s.enqueue who fs).cmdq = s.cmdq := by cases who <;> rfl
@[simp] theorem enqueue_cmdqLen (who : Agent) (fs : List Frame) : (s.enqueue who fs).cmdqLen = s.cmdqLen := by cases who <;> rfl
@[simp] theorem enqueue_ts1 (who : Agent) (fs : List Frame) : (s.enqueue who fs).ts1 = s.ts1 := by cases who <;> rfl
@[simp] theorem enqueue_ts3 (who : Agent) (fs : List Frame) : (s.enqueue who fs).ts3 = s.ts3 := by cases who <;> rfl
@[simp] theorem enqueue_ph (who : Agent) (fs : List Frame) : (s.enqueue who fs).ph = s.ph := by cases who <;> rfl
@[simp] theorem enqueue_sf (who : Agent) (fs : List Frame) : (s.enqueue who fs).sf = s.sf := by cases who <;> rfl
@[simp] theorem enqueue_sdo (who : Agent) (fs : List Frame) : (s.enqueue who fs).sdo = s.sdo := by cases who <;> rfl
@[simp] theorem enqueue_sck (who : Agent) (fs : List Frame) : (s.enqueue who fs).sck = s.sck := by cases who <;> rfl
@[simp] theorem enqueue_dc (who : Agent) (fs : List Frame) : (s.enqueue who fs).dc = s.dc := by cases who <;> rfl
@[simp] theorem enqueue_cs (who : Agent) (fs : List Frame) : (s.enqueue who fs).cs = s.cs := by cases who <;> rfl
@[simp] theorem enqueue_res (who : Agent) (fs : List Frame) : (s.enqueue who fs).res = s.res := by cases who <;> rfl
@[simp] theorem enqueue_hop (who : Agent) (fs : List Frame) : (s.enqueue who fs).hop = s.hop := by cases who <;> rfl
@[simp] theorem enqueue_hph (who : Agent) (fs : List Frame) : (s.enqueue who fs).hph = s.hph := by cases who <;> rfl
@[simp] theorem enqueue_busLog (who : Agent) (fs : List Frame) : (s.enqueue who fs).busLog = s.busLog := by cases who <;> rfl
@[simp] theorem enqueue_cfg (who : Agent) (fs : List Frame) : (s.enqueue who fs).cfg = s.cfg := by cases who <;> rfl
@[simp] theorem enqueue_now (who : Agent) (fs : List Frame) : (s.enqueue who fs).now = s.now := by cases who <;> rfl
@[simp] theorem enqueue_hostIn (who : Agent) (fs : List Frame) : (s.enqueue who fs).hostIn = s.hostIn := by cases who <;> rfl
@[simp] theorem enqueue_responses (who : Agent) (fs : List Frame) : (s.enqueue who fs).responses = s.responses := by cases who <;> rfl
@[simp] theorem enqueue_pph (who : Agent) (fs : List Frame) : (s.enqueue who fs).pph = s.pph := by cases who <;> rfl
@[simp] theorem enqueue_waitLeft (who : Agent) (fs : List Frame) : (s.enqueue who fs).waitLeft = s.waitLeft := by cases who <;> rfl
@[simp] theorem enqueue_turn (who : Agent) (fs : List Frame) : (s.enqueue who fs).turn = s.turn := by cases who <;> rfl
@[simp] theorem enqueue_sched (who : Agent) (fs : List Frame) : (s.enqueue who fs).sched = s.sched := by cases who <;> rfl
@[simp] theorem enqueue_draws (who : Agent) (fs : List Frame) : (s.enqueue who fs).draws = s.draws := by cases who <;> rfl

/-! ### putLogical -/
@[simp] theorem putLogical_dp0 (p : LogicalPlane) (i : Nat) (v : Byte) : (s.putLogical p i v).dp0 = s.dp0 := by cases p <;> rfl
@[simp] theorem putLogical_dp1 (p : LogicalPlane) (i : Nat) (v : Byte) : (s.putLogical p i v).dp1 = s.dp1 := by cases p <;> rfl
@[simp] theorem putLogical_dp2 (p : LogicalPlane) (i : Nat) (v : Byte) : (s.putLogical p i v).dp2 = s.dp2 := by cases p <;> rfl
@[simp] theorem putLogical_runState (p : LogicalPlane) (i : Nat) (v : Byte) : (s.putLogical p i v).runState = s.runState := by cases p <;> rfl
@[simp] theorem putLogical_copyPending (p : LogicalPlane) (i : Nat) (v : Byte) : (s.putLogical p i v).copyPending = s.copyPending := by cases p <;> rfl
@[simp] theorem putLogical_pendingCmd (p : LogicalPlane) (i : Nat) (v : Byte) : (s.putLogical p i v).pendingCmd = s.pendingCmd := by cases p <;> rfl
@[simp] theorem putLogical_creq (p : LogicalPlane) (i : Nat) (v : Byte) : (s.putLogical p i v).creq = s.creq := by cases p <;> rfl
@[simp] theorem putLogical_cadj (p : LogicalPlane) (i : Nat) (v : Byte) : (s.putLogical p i v).cadj = s.cadj := by cases p <;> rfl
@[simp] theorem putLogical_cmdq (p : LogicalPlane) (i : Nat) (v : Byte) : (s.putLogical p i v).cmdq = s.cmdq := by cases p <;> rfl
@[simp] theorem putLogical_cmdqLen (p : LogicalPlane) (i : Nat) (v : Byte) : (s.putLogical p i v).cmdqLen = s.cmdqLen := by cases p <;> rfl
@[simp] theorem putLogical_ts1 (p : LogicalPlane) (i : Nat) (v : Byte) : (s.putLogical p i v).ts1 = s.ts1 := by cases p <;> rfl
@[simp] theorem putLogical_ts3 (p : LogicalPlane) (i : Nat) (v : Byte) : (s.putLogical p i v).ts3 = s.ts3 := by cases p <;> rfl
@[simp] theorem putLogical_ph (p : LogicalPlane) (i : Nat) (v : Byte) : (s.putLogical p i v).ph = s.ph := by cases p <;> rfl
@[simp] theorem putLogical_sf (p : LogicalPlane) (i : Nat) (v : Byte) : (s.putLogical p i v).sf = s.sf := by cases p <;> rfl
@[simp] theorem putLogical_sdo (p : LogicalPlane) (i : Nat) (v : Byte) : (s.putLogical p i v).sdo = s.sdo := by cases p <;> rfl
@[simp] theorem putLogical_sck (p : LogicalPlane) (i : Nat) (v : Byte) : (s.putLogical p i v).sck = s.sck := by cases p <;> rfl
@[simp] theorem putLogical_dc (p : LogicalPlane) (i : Nat) (v : Byte) : (s.putLogical p i v).dc = s.dc := by cases p <;> rfl
@[simp] theorem putLogical_cs (p : LogicalPlane) (i : Nat) (v : Byte) : (s.putLogical p i v).cs = s.cs := by cases p <;> rfl
@[simp] theorem putLogical_res (p : LogicalPlane) (i : Nat) (v : Byte) : (s.putLogical p i v).res = s.res := by cases p <;> rfl
@[simp] theorem putLogical_hop (p : LogicalPlane) (i : Nat) (v : Byte) : (s.putLogical p i v).hop = s.hop := by cases p <;> rfl
@[simp] theorem putLogical_hph (p : LogicalPlane) (i : Nat) (v : Byte) : (s.putLogical p i v).hph = s.hph := by cases p <;> rfl
@[simp] theorem putLogical_busLog (p : LogicalPlane) (i : Nat) (v : Byte) : (s.putLogical p i v).busLog = s.busLog := by cases p <;> rfl
@[simp] theorem putLogical_cfg (p : LogicalPlane) (i : Nat) (v : Byte) : (s.putLogical p i v).cfg = s.cfg := by cases p <;> rfl
@[simp] theorem putLogical_now (p : LogicalPlane) (i : Nat) (v : Byte) : (s.putLogical p i v).now = s.now := by cases p <;> rfl
@[simp] theorem putLogical_hostIn (p : LogicalPlane) (i : Nat) (v : Byte) : (s.putLogical p i v).hostIn = s.hostIn := by cases p <;> rfl
@[simp] theorem putLogical_responses (p : LogicalPlane) (i : Nat) (v : Byte) : (s.putLogical p i v).responses = s.responses := by cases p <;> rfl
@[simp] theorem putLogical_pph (p : LogicalPlane) (i : Nat) (v : Byte) : (s.putLogical p i v).pph = s.pph := by cases p <;> rfl
@[simp] theorem putLogical_waitLeft (p : LogicalPlane) (i : Nat) (v : Byte) : (s.putLogical p i v).waitLeft = s.waitLeft := by cases p <;> rfl
@[simp] theorem putLogical_hostTx (p : LogicalPlane) (i : Nat) (v : Byte) : (s.putLogical p i v).hostTx = s.hostTx := by cases p <;> rfl
@[simp] theorem putLogical_pumpTx (p : LogicalPlane) (i : Nat) (v : Byte) : (s.putLogical p i v).pumpTx = s.pumpTx := by cases p <;> rfl
@[simp] theorem putLogical_turn (p : LogicalPlane) (i : Nat) (v : Byte) : (s.putLogical p i v).turn = s.turn := by cases p <;> rfl
@[simp] theorem putLogical_sched (p : LogicalPlane) (i : Nat) (v : Byte) : (s.putLogical p i v).sched = s.sched := by cases p <;> rfl
@[simp] theorem putLogical_draws (p : LogicalPlane) (i : Nat) (v : Byte) : (s.putLogical p i v).draws = s.draws := by cases p <;> rfl

/-! ### takeTurn -/
@[simp] theorem takeTurn_la : (s.takeTurn).la = s.la := by unfold State.takeTurn; split <;> rfl
@[simp] theorem takeTurn_lb : (s.takeTurn).lb = s.lb := by unfold State.takeTurn; split <;> rfl
@[simp] theorem takeTurn_dp0 : (s.takeTurn).dp0 = s.dp0 := by unfold State.takeTurn; split <;> rfl
@[simp] theorem takeTurn_dp1 : (s.takeTurn).dp1 = s.dp1 := by unfold State.takeTurn; split <;> rfl
@[simp] theorem takeTurn_dp2 : (s.takeTurn).dp2 = s.dp2 := by unfold State.takeTurn; split <;> rfl
@[simp] theorem takeTurn_runState : (s.takeTurn).runState = s.runState := by unfold State.takeTurn; split <;> rfl
@[simp] theorem takeTurn_copyPending : (s.takeTurn).copyPending = s.copyPending := by unfold State.takeTurn; split <;> rfl
@[simp] theorem takeTurn_pendingCmd : (s.takeTurn).pendingCmd = s.pendingCmd := by unfold State.takeTurn; split <;> rfl
@[simp] theorem takeTurn_creq : (s.takeTurn).creq = s.creq := by unfold State.takeTurn; split <;> rfl
@[simp] theorem takeTurn_cadj : (s.takeTurn).cadj = s.cadj := by unfold State.takeTurn; split <;> rfl
@[simp] theorem takeTurn_cmdq : (s.takeTurn).cmdq = s.cmdq := by unfold State.takeTurn; split <;> rfl
@[simp] theorem takeTurn_cmdqLen : (s.takeTurn).cmdqLen = s.cmdqLen := by unfold State.takeTurn; split <;> rfl
@[simp] theorem takeTurn_ts1 : (s.takeTurn).ts1 = s.ts1 := by unfold State.takeTurn; split <;> rfl
@[simp] theorem takeTurn_ts3 : (s.takeTurn).ts3 = s.ts3 := by unfold State.takeTurn; split <;> rfl
@[simp] theorem takeTurn_ph : (s.takeTurn).ph = s.ph := by unfold State.takeTurn; split <;> rfl
@[simp] theorem takeTurn_sf : (s.takeTurn).sf = s.sf := by unfold State.takeTurn; split <;> rfl
@[simp] theorem takeTurn_sdo : (s.takeTurn).sdo = s.sdo := by unfold State.takeTurn; split <;> rfl
@[simp] theorem takeTurn_sck : (s.takeTurn).sck = s.sck := by unfold State.takeTurn; split <;> rfl
@[simp] theorem takeTurn_dc : (s.takeTurn).dc = s.dc := by unfold State.takeTurn; split <;> rfl
@[simp] theorem takeTurn_cs : (s.takeTurn).cs = s.cs := by unfold State.takeTurn; split <;> rfl
@[simp] theorem takeTurn_res : (s.takeTurn).res = s.res := by unfold State.takeTurn; split <;> rfl
@[simp] theorem takeTurn_hop : (s.takeTurn).hop = s.hop := by unfold State.takeTurn; split <;> rfl
@[simp] theorem takeTurn_hph : (s.takeTurn).hph = s.hph := by unfold State.takeTurn; split <;> rfl
@[simp] theorem takeTurn_busLog : (s.takeTurn).busLog = s.busLog := by unfold State.takeTurn; split <;> rfl
@[simp] theorem takeTurn_cfg : (s.takeTurn).cfg = s.cfg := by unfold State.takeTurn; split <;> rfl
@[simp] theorem takeTurn_now : (s.takeTurn).now = s.now := by unfold State.takeTurn; split <;> rfl
@[simp] theorem takeTurn_hostIn : (s.takeTurn).hostIn = s.hostIn := by unfold State.takeTurn; split <;> rfl
@[simp] theorem takeTurn_responses : (s.takeTurn).responses = s.responses := by unfold State.takeTurn; split <;> rfl
@[simp] theorem takeTurn_pph : (s.takeTurn).pph = s.pph := by unfold State.takeTurn; split <;> rfl
@[simp] theorem takeTurn_waitLeft : (s.takeTurn).waitLeft = s.waitLeft := by unfold State.takeTurn; split <;> rfl
@[simp] theorem takeTurn_hostTx : (s.takeTurn).hostTx = s.hostTx := by unfold State.takeTurn; split <;> rfl
@[simp] theorem takeTurn_pumpTx : (s.takeTurn).pumpTx = s.pumpTx := by unfold State.takeTurn; split <;> rfl

/-! ### oweWrites -/
@[simp] theorem oweWrites_la (todo : List PlaneAct) : (s.oweWrites todo).la = s.la := by unfold State.oweWrites; split <;> rfl
@[simp] theorem oweWrites_lb (todo : List PlaneAct) : (s.oweWrites todo).lb = s.lb := by unfold State.oweWrites; split <;> rfl
@[simp] theorem oweWrites_dp0 (todo : List PlaneAct) : (s.oweWrites todo).dp0 = s.dp0 := by unfold State.oweWrites; split <;> rfl
@[simp] theorem oweWrites_dp1 (todo : List PlaneAct) : (s.oweWrites todo).dp1 = s.dp1 := by unfold State.oweWrites; split <;> rfl
@[simp] theorem oweWrites_dp2 (todo : List PlaneAct) : (s.oweWrites todo).dp2 = s.dp2 := by unfold State.oweWrites; split <;> rfl
@[simp] theorem oweWrites_runState (todo : List PlaneAct) : (s.oweWrites todo).runState = s.runState := by unfold State.oweWrites; split <;> rfl
@[simp] theorem oweWrites_copyPending (todo : List PlaneAct) : (s.oweWrites todo).copyPending = s.copyPending := by unfold State.oweWrites; split <;> rfl
@[simp] theorem oweWrites_pendingCmd (todo : List PlaneAct) : (s.oweWrites todo).pendingCmd = s.pendingCmd := by unfold State.oweWrites; split <;> rfl
@[simp] theorem oweWrites_creq (todo : List PlaneAct) : (s.oweWrites todo).creq = s.creq := by unfold State.oweWrites; split <;> rfl
@[simp] theorem oweWrites_cadj (todo : List PlaneAct) : (s.oweWrites todo).cadj = s.cadj := by unfold State.oweWrites; split <;> rfl
@[simp] theorem oweWrites_cmdq (todo : List PlaneAct) : (s.oweWrites todo).cmdq = s.cmdq := by unfold State.oweWrites; split <;> rfl
@[simp] theorem oweWrites_cmdqLen (todo : List PlaneAct) : (s.oweWrites todo).cmdqLen = s.cmdqLen := by unfold State.oweWrites; split <;> rfl
@[simp] theorem oweWrites_ts1 (todo : List PlaneAct) : (s.oweWrites todo).ts1 = s.ts1 := by unfold State.oweWrites; split <;> rfl
@[simp] theorem oweWrites_ts3 (todo : List PlaneAct) : (s.oweWrites todo).ts3 = s.ts3 := by unfold State.oweWrites; split <;> rfl
@[simp] theorem oweWrites_ph (todo : List PlaneAct) : (s.oweWrites todo).ph = s.ph := by unfold State.oweWrites; split <;> rfl
@[simp] theorem oweWrites_sf (todo : List PlaneAct) : (s.oweWrites todo).sf = s.sf := by unfold State.oweWrites; split <;> rfl
@[simp] theorem oweWrites_sdo (todo : List PlaneAct) : (s.oweWrites todo).sdo = s.sdo := by unfold State.oweWrites; split <;> rfl
@[simp] theorem oweWrites_sck (todo : List PlaneAct) : (s.oweWrites todo).sck = s.sck := by unfold State.oweWrites; split <;> rfl
@[simp] theorem oweWrites_dc (todo : List PlaneAct) : (s.oweWrites todo).dc = s.dc := by unfold State.oweWrites; split <;> rfl
@[simp] theorem oweWrites_cs (todo : List PlaneAct) : (s.oweWrites todo).cs = s.cs := by unfold State.oweWrites; split <;> rfl
@[simp] theorem oweWrites_res (todo : List PlaneAct) : (s.oweWrites todo).res = s.res := by unfold State.oweWrites; split <;> rfl
@[simp] theorem oweWrites_busLog (todo : List PlaneAct) : (s.oweWrites todo).busLog = s.busLog := by unfold State.oweWrites; split <;> rfl
@[simp] theorem oweWrites_cfg (todo : List PlaneAct) : (s.oweWrites todo).cfg = s.cfg := by unfold State.oweWrites; split <;> rfl
@[simp] theorem oweWrites_now (todo : List PlaneAct) : (s.oweWrites todo).now = s.now := by unfold State.oweWrites; split <;> rfl
@[simp] theorem oweWrites_hostIn (todo : List PlaneAct) : (s.oweWrites todo).hostIn = s.hostIn := by unfold State.oweWrites; split <;> rfl
@[simp] theorem oweWrites_pph (todo : List PlaneAct) : (s.oweWrites todo).pph = s.pph := by unfold State.oweWrites; split <;> rfl
@[simp] theorem oweWrites_waitLeft (todo : List PlaneAct) : (s.oweWrites todo).waitLeft = s.waitLeft := by unfold State.oweWrites; split <;> rfl
@[simp] theorem oweWrites_hostTx (todo : List PlaneAct) : (s.oweWrites todo).hostTx = s.hostTx := by unfold State.oweWrites; split <;> rfl
@[simp] theorem oweWrites_pumpTx (todo : List PlaneAct) : (s.oweWrites todo).pumpTx = s.pumpTx := by unfold State.oweWrites; split <;> rfl
@[simp] theorem oweWrites_turn (todo : List PlaneAct) : (s.oweWrites todo).turn = s.turn := by unfold State.oweWrites; split <;> rfl
@[simp] theorem oweWrites_sched (todo : List PlaneAct) : (s.oweWrites todo).sched = s.sched := by unfold State.oweWrites; split <;> rfl
@[simp] theorem oweWrites_draws (todo : List PlaneAct) : (s.oweWrites todo).draws = s.draws := by unfold State.oweWrites; split <;> rfl

/-! ### oweCompose -/
@[simp] theorem oweCompose_la (todo : List ComposeItem) : (s.oweCompose todo).la = s.la := by unfold State.oweCompose; split <;> rfl
@[simp] theorem oweCompose_lb (todo : List ComposeItem) : (s.oweCompose todo).lb = s.lb := by unfold State.oweCompose; split <;> rfl
@[simp] theorem oweCompose_dp0 (todo : List ComposeItem) : (s.oweCompose todo).dp0 = s.dp0 := by unfold State.oweCompose; split <;> rfl
@[simp] theorem oweCompose_dp1 (todo : List ComposeItem) : (s.oweCompose todo).dp1 = s.dp1 := by unfold State.oweCompose; split <;> rfl
@[simp] theorem oweCompose_dp2 (todo : List ComposeItem) : (s.oweCompose todo).dp2 = s.dp2 := by unfold State.oweCompose; split <;> rfl
@[simp] theorem oweCompose_runState (todo : List ComposeItem) : (s.oweCompose todo).runState = s.runState := by unfold State.oweCompose; split <;> rfl
@[simp] theorem oweCompose_copyPending (todo : List ComposeItem) : (s.oweCompose todo).copyPending = s.copyPending := by unfold State.oweCompose; split <;> rfl
@[simp] theorem oweCompose_pendingCmd (todo : List ComposeItem) : (s.oweCompose todo).pendingCmd = s.pendingCmd := by unfold State.oweCompose; split <;> rfl
@[simp] theorem oweCompose_creq (todo : List ComposeItem) : (s.oweCompose todo).creq = s.creq := by unfold State.oweCompose; split <;> rfl
@[simp] theorem oweCompose_cadj (todo : List ComposeItem) : (s.oweCompose todo).cadj = s.cadj := by unfold State.oweCompose; split <;> rfl
@[simp] theorem oweCompose_cmdq (todo : List ComposeItem) : (s.oweCompose todo).cmdq = s.cmdq := by unfold State.oweCompose; split <;> rfl
@[simp] theorem oweCompose_cmdqLen (todo : List ComposeItem) : (s.oweCompose todo).cmdqLen = s.cmdqLen := by unfold State.oweCompose; split <;> rfl
@[simp] theorem oweCompose_ts1 (todo : List ComposeItem) : (s.oweCompose todo).ts1 = s.ts1 := by unfold State.oweCompose; split <;> rfl
@[simp] theorem oweCompose_ts3 (todo : List ComposeItem) : (s.oweCompose todo).ts3 = s.ts3 := by unfold State.oweCompose; split <;> rfl
@[simp] theorem oweCompose_ph (todo : List ComposeItem) : (s.oweCompose todo).ph = s.ph := by unfold State.oweCompose; split <;> rfl
@[simp] theorem oweCompose_sf (todo : List ComposeItem) : (s.oweCompose todo).sf = s.sf := by unfold State.oweCompose; split <;> rfl
@[simp] theorem oweCompose_sdo (todo : List ComposeItem) : (s.oweCompose todo).sdo = s.sdo := by unfold State.oweCompose; split <;> rfl
@[simp] theorem oweCompose_sck (todo : List ComposeItem) : (s.oweCompose todo).sck = s.sck := by unfold State.oweCompose; split <;> rfl
@[simp] theorem oweCompose_dc (todo : List ComposeItem) : (s.oweCompose todo).dc = s.dc := by unfold State.oweCompose; split <;> rfl
@[simp] theorem oweCompose_cs (todo : List ComposeItem) : (s.oweCompose todo).cs = s.cs := by unfold State.oweCompose; split <;> rfl
@[simp] theorem oweCompose_res (todo : List ComposeItem) : (s.oweCompose todo).res = s.res := by unfold State.oweCompose; split <;> rfl
@[simp] theorem oweCompose_hop (todo : List ComposeItem) : (s.oweCompose todo).hop = s.hop := by unfold State.oweCompose; split <;> rfl
@[simp] theorem oweCompose_hph (todo : List ComposeItem) : (s.oweCompose todo).hph = s.hph := by unfold State.oweCompose; split <;> rfl
@[simp] theorem oweCompose_busLog (todo : List ComposeItem) : (s.oweCompose todo).busLog = s.busLog := by unfold State.oweCompose; split <;> rfl
@[simp] theorem oweCompose_cfg (todo : List ComposeItem) : (s.oweCompose todo).cfg = s.cfg := by unfold State.oweCompose; split <;> rfl
@[simp] theorem oweCompose_now (todo : List ComposeItem) : (s.oweCompose todo).now = s.now := by unfold State.oweCompose; split <;> rfl
@[simp] theorem oweCompose_hostIn (todo : List ComposeItem) : (s.oweCompose todo).hostIn = s.hostIn := by unfold State.oweCompose; split <;> rfl
@[simp] theorem oweCompose_responses (todo : List ComposeItem) : (s.oweCompose todo).responses = s.responses := by unfold State.oweCompose; split <;> rfl
@[simp] theorem oweCompose_waitLeft (todo : List ComposeItem) : (s.oweCompose todo).waitLeft = s.waitLeft := by unfold State.oweCompose; split <;> rfl
@[simp] theorem oweCompose_hostTx (todo : List ComposeItem) : (s.oweCompose todo).hostTx = s.hostTx := by unfold State.oweCompose; split <;> rfl
@[simp] theorem oweCompose_pumpTx (todo : List ComposeItem) : (s.oweCompose todo).pumpTx = s.pumpTx := by unfold State.oweCompose; split <;> rfl
@[simp] theorem oweCompose_turn (todo : List ComposeItem) : (s.oweCompose todo).turn = s.turn := by unfold State.oweCompose; split <;> rfl
@[simp] theorem oweCompose_sched (todo : List ComposeItem) : (s.oweCompose todo).sched = s.sched := by unfold State.oweCompose; split <;> rfl
@[simp] theorem oweCompose_draws (todo : List ComposeItem) : (s.oweCompose todo).draws = s.draws := by unfold State.oweCompose; split <;> rfl

/-! ### testRunning -/
@[simp] theorem testRunning_la : (s.testRunning).la = s.la := by unfold State.testRunning; split <;> rfl
@[simp] theorem testRunning_lb : (s.testRunning).lb = s.lb := by unfold State.testRunning; split <;> rfl
@[simp] theorem testRunning_dp0 : (s.testRunning).dp0 = s.dp0 := by unfold State.testRunning; split <;> rfl
@[simp] theorem testRunning_dp1 : (s.testRunning).dp1 = s.dp1 := by unfold State.testRunning; split <;> rfl
@[simp] theorem testRunning_dp2 : (s.testRunning).dp2 = s.dp2 := by unfold State.testRunning; split <;> rfl
@[simp] theorem testRunning_runState : (s.testRunning).runState = s.runState := by unfold State.testRunning; split <;> rfl
@[simp] theorem testRunning_copyPending : (s.testRunning).copyPending = s.copyPending := by unfold State.testRunning; split <;> rfl
@[simp] theorem testRunning_pendingCmd : (s.testRunning).pendingCmd = s.pendingCmd := by unfold State.testRunning; split <;> rfl
@[simp] theorem testRunning_creq : (s.testRunning).creq = s.creq := by unfold State.testRunning; split <;> rfl
@[simp] theorem testRunning_cadj : (s.testRunning).cadj = s.cadj := by unfold State.testRunning; split <;> rfl
@[simp] theorem testRunning_cmdq : (s.testRunning).cmdq = s.cmdq := by unfold State.testRunning; split <;> rfl
@[simp] theorem testRunning_cmdqLen : (s.testRunning).cmdqLen = s.cmdqLen := by unfold State.testRunning; split <;> rfl
@[simp] theorem testRunning_ts1 : (s.testRunning).ts1 = s.ts1 := by unfold State.testRunning; split <;> rfl
@[simp] theorem testRunning_ts3 : (s.testRunning).ts3 = s.ts3 := by unfold State.testRunning; split <;> rfl
@[simp] theorem testRunning_ph : (s.testRunning).ph = s.ph := by unfold State.testRunning; split <;> rfl
@[simp] theorem testRunning_sf : (s.testRunning).sf = s.sf := by unfold State.testRunning; split <;> rfl
@[simp] theorem testRunning_sdo : (s.testRunning).sdo = s.sdo := by unfold State.testRunning; split <;> rfl
@[simp] theorem testRunning_sck : (s.testRunning).sck = s.sck := by unfold State.testRunning; split <;> rfl
@[simp] theorem testRunning_dc : (s.testRunning).dc = s.dc := by unfold State.testRunning; split <;> rfl
@[simp] theorem testRunning_cs : (s.testRunning).cs = s.cs := by unfold State.testRunning; split <;> rfl
@[simp] theorem testRunning_res : (s.testRunning).res = s.res := by unfold State.testRunning; split <;> rfl
@[simp] theorem testRunning_busLog : (s.testRunning).busLog = s.busLog := by unfold State.testRunning; split <;> rfl
@[simp] theorem testRunning_cfg : (s.testRunning).cfg = s.cfg := by unfold State.testRunning; split <;> rfl
@[simp] theorem testRunning_now : (s.testRunning).now = s.now := by unfold State.testRunning; split <;> rfl
@[simp] theorem testRunning_hostIn : (s.testRunning).hostIn = s.hostIn := by unfold State.testRunning; split <;> rfl
@[simp] theorem testRunning_pph : (s.testRunning).pph = s.pph := by unfold State.testRunning; split <;> rfl
@[simp] theorem testRunning_waitLeft : (s.testRunning).waitLeft = s.waitLeft := by unfold State.testRunning; split <;> rfl
@[simp] theorem testRunning_hostTx : (s.testRunning).hostTx = s.hostTx := by unfold State.testRunning; split <;> rfl
@[simp] theorem testRunning_pumpTx : (s.testRunning).pumpTx = s.pumpTx := by unfold State.testRunning; split <;> rfl
@[simp] theorem testRunning_turn : (s.testRunning).turn = s.turn := by unfold State.testRunning; split <;> rfl
@[simp] theorem testRunning_sched : (s.testRunning).sched = s.sched := by unfold State.testRunning; split <;> rfl
@[simp] theorem testRunning_draws : (s.testRunning).draws = s.draws := by unfold State.testRunning; split <;> rfl

/-! ### pollServed -/
@[simp] theorem pollServed_la (b : Bool) : (s.pollServed b).la = s.la := by unfold State.pollServed; split <;> rfl
@[simp] theorem pollServed_lb (b : Bool) : (s.pollServed b).lb = s.lb := by unfold State.pollServed; split <;> rfl
@[simp] theorem pollServed_dp0 (b : Bool) : (s.pollServed b).dp0 = s.dp0 := by unfold State.pollServed; split <;> rfl
@[simp] theorem pollServed_dp1 (b : Bool) : (s.pollServed b).dp1 = s.dp1 := by unfold State.pollServed; split <;> rfl
@[simp] theorem pollServed_dp2 (b : Bool) : (s.pollServed b).dp2 = s.dp2 := by unfold State.pollServed; split <;> rfl
@[simp] theorem pollServed_runState (b : Bool) : (s.pollServed b).runState = s.runState := by unfold State.pollServed; split <;> rfl
@[simp] theorem pollServed_copyPending (b : Bool) : (s.pollServed b).copyPending = s.copyPending := by unfold State.pollServed; split <;> rfl
@[simp] theorem pollServed_pendingCmd (b : Bool) : (s.pollServed b).pendingCmd = s.pendingCmd := by unfold State.pollServed; split <;> rfl
@[simp] theorem pollServed_creq (b : Bool) : (s.pollServed b).creq = s.creq := by unfold State.pollServed; split <;> rfl
@[simp] theorem pollServed_cadj (b : Bool) : (s.pollServed b).cadj = s.cadj := by unfold State.pollServed; split <;> rfl
@[simp] theorem pollServed_cmdq (b : Bool) : (s.pollServed b).cmdq = s.cmdq := by unfold State.pollServed; split <;> rfl
@[simp] theorem pollServed_cmdqLen (b : Bool) : (s.pollServed b).cmdqLen = s.cmdqLen := by unfold State.pollServed; split <;> rfl
@[simp] theorem pollServed_ts1 (b : Bool) : (s.pollServed b).ts1 = s.ts1 := by unfold State.pollServed; split <;> rfl
@[simp] theorem pollServed_ts3 (b : Bool) : (s.pollServed b).ts3 = s.ts3 := by unfold State.pollServed; split <;> rfl
@[simp] theorem pollServed_ph (b : Bool) : (s.pollServed b).ph = s.ph := by unfold State.pollServed; split <;> rfl
@[simp] theorem pollServed_sf (b : Bool) : (s.pollServed b).sf = s.sf := by unfold State.pollServed; split <;> rfl
@[simp] theorem pollServed_sdo (b : Bool) : (s.pollServed b).sdo = s.sdo := by unfold State.pollServed; split <;> rfl
@[simp] theorem pollServed_sck (b : Bool) : (s.pollServed b).sck = s.sck := by unfold State.pollServed; split <;> rfl
@[simp] theorem pollServed_dc (b : Bool) : (s.pollServed b).dc = s.dc := by unfold State.pollServed; split <;> rfl
@[simp] theorem pollServed_cs (b : Bool) : (s.pollServed b).cs = s.cs := by unfold State.pollServed; split <;> rfl
@[simp] theorem pollServed_res (b : Bool) : (s.pollServed b).res = s.res := by unfold State.pollServed; split <;> rfl
@[simp] theorem pollServed_busLog (b : Bool) : (s.pollServed b).busLog = s.busLog := by unfold State.pollServed; split <;> rfl
@[simp] theorem pollServed_cfg (b : Bool) : (s.pollServed b).cfg = s.cfg := by unfold State.pollServed; split <;> rfl
@[simp] theorem pollServed_now (b : Bool) : (s.pollServed b).now = s.now := by unfold State.pollServed; split <;> rfl
@[simp] theorem pollServed_hostIn (b : Bool) : (s.pollServed b).hostIn = s.hostIn := by unfold State.pollServed; split <;> rfl
@[simp] theorem pollServed_pph (b : Bool) : (s.pollServed b).pph = s.pph := by unfold State.pollServed; split <;> rfl
@[simp] theorem pollServed_waitLeft (b : Bool) : (s.pollServed b).waitLeft = s.waitLeft := by unfold State.pollServed; split <;> rfl
@[simp] theorem pollServed_hostTx (b : Bool) : (s.pollServed b).hostTx = s.hostTx := by unfold State.pollServed; split <;> rfl
@[simp] theorem pollServed_pumpTx (b : Bool) : (s.pollServed b).pumpTx = s.pumpTx := by unfold State.pollServed; split <;> rfl
@[simp] theorem pollServed_turn (b : Bool) : (s.pollServed b).turn = s.turn := by unfold State.pollServed; split <;> rfl
@[simp] theorem pollServed_sched (b : Bool) : (s.pollServed b).sched = s.sched := by unfold State.pollServed; split <;> rfl
@[simp] theorem pollServed_draws (b : Bool) : (s.pollServed b).draws = s.draws := by unfold State.pollServed; split <;> rfl

/-! ### sendBurst, what it changes -/
@[simp] theorem sendBurst_busLog (d : Bool) (bs : List Byte) (who : Agent) :
    (s.sendBurst d bs who).busLog = s.busLog ++ bs.map (fun x => .byte d x who) := by
  unfold State.sendBurst
  split
  · rename_i h
    rw [List.getLast?_eq_none_iff] at h
    simp [h]
  · rfl

@[simp] theorem sendBurst_nil (d : Bool) (who : Agent) : s.sendBurst d [] who = s := rfl

@[simp] theorem enqueue_host_hostTx (fs : List Frame) : (s.enqueue .host fs).hostTx = s.hostTx ++ fs := rfl
@[simp] theorem enqueue_host_pumpTx (fs : List Frame) : (s.enqueue .host fs).pumpTx = s.pumpTx := rfl
@[simp] theorem enqueue_pump_hostTx (fs : List Frame) : (s.enqueue .pump fs).hostTx = s.hostTx := rfl
@[simp] theorem enqueue_pump_pumpTx (fs : List Frame) : (s.enqueue .pump fs).pumpTx = s.pumpTx ++ fs := rfl

@[simp] theorem putLogical_a_la (i : Nat) (v : Byte) : (s.putLogical .a i v).la = s.la.write i v := rfl
@[simp] theorem putLogical_a_lb (i : Nat) (v : Byte) : (s.putLogical .a i v).lb = s.lb := rfl
@[simp] theorem putLogical_b_la (i : Nat) (v : Byte) : (s.putLogical .b i v).la = s.la := rfl
@[simp] theorem putLogical_b_lb (i : Nat) (v : Byte) : (s.putLogical .b i v).lb = s.lb.write i v := rfl

end Sys2Proof.Machine
end

