-- ==== Sys2Proof/Laws/Ops.lean ====
section
/-! SUPPORT. For each shared operation, once, everything it can do. -/

namespace Sys2Proof.Machine

variable {s t : State}

/-- Everything a plane access of a FILL or PIXEL in flight can do. -/
theorem writeStep_cases {todo : List PlaneAct} (h : s.writeStep todo = .next t) :
    (todo[turnPick s.turn % todo.length]? = none ∧ t = s.respond .done) ∨
    (∃ p i v, todo[turnPick s.turn % todo.length]? = some (.put p i v) ∧
      t = (s.putLogical p i v).oweWrites (todo.eraseIdx (turnPick s.turn % todo.length))) ∨
    (∃ p i mask on, todo[turnPick s.turn % todo.length]? = some (.change p i mask on) ∧ s.planesOk = true ∧
      t = s.oweWrites (todo.set (turnPick s.turn % todo.length)
        (.put p i (putMask ((s.logical p).byteAt i) mask on)))) := by
  unfold State.writeStep at h
  dsimp only at h
  split at h
  · exact .inl ⟨‹_›, by injection h with h; exact h.symm⟩
  · exact .inr (.inl ⟨_, _, _, ‹_›, by injection h with h; exact h.symm⟩)
  · split at h
    · exact .inr (.inr ⟨_, _, _, _, ‹_›, ‹_›, by injection h with h; exact h.symm⟩)
    · cases h

/-- Everything one read of a COMPOSE under way can do. -/
theorem composeStep_cases {todo : List ComposeItem} (h : s.composeStep todo = .next t) :
    (todo[turnPick s.turn % todo.length]? = none ∧ t = s.pumpAt .clearCopy) ∨
    (∃ it, todo[turnPick s.turn % todo.length]? = some it ∧ s.planesOk = true ∧
      ((∃ a b,
          (it.readOne (turnPick s.turn / todo.length % 2 == 0) (s.la.byteAt it.idx) (s.lb.byteAt it.idx)).a = some a ∧
          (it.readOne (turnPick s.turn / todo.length % 2 == 0) (s.la.byteAt it.idx) (s.lb.byteAt it.idx)).b = some b ∧
          t = (s.putDerived it.idx a b).oweCompose (todo.eraseIdx (turnPick s.turn % todo.length))) ∨
       t = s.oweCompose (todo.set (turnPick s.turn % todo.length)
          (it.readOne (turnPick s.turn / todo.length % 2 == 0) (s.la.byteAt it.idx) (s.lb.byteAt it.idx))))) := by
  unfold State.composeStep at h
  dsimp only at h
  split at h
  · exact .inl ⟨‹_›, by injection h with h; exact h.symm⟩
  · split at h
    · refine .inr ⟨_, ‹_›, ‹_›, ?_⟩
      split at h
      · exact .inl ⟨_, _, ‹_›, ‹_›, by injection h with h; exact h.symm⟩
      · exact .inr (by injection h with h; exact h.symm)
    · cases h

/-- Everything a micro-operation that sends command bytes can do (R163, R166, R167, R168). -/
theorem sendThenGoto_cases {bytes : List Byte} {p : BitVec 4} (h : s.sendThenGoto bytes p = .next t) :
    (s.pph = .start ∧ turnGrain s.turn = .atOnce ∧ t = (s.txc bytes .pump).goto p) ∨
    (s.pph = .start ∧ turnGrain s.turn = .stepwise ∧ t = (s.enqueue .pump (framesOf false bytes)).pumpAt .sent) ∨
    (s.pph = .sent ∧ t = s.goto p) := by
  unfold State.sendThenGoto at h
  split at h
  · split at h
    · exact .inl ⟨‹_›, ‹_›, by injection h with h; exact h.symm⟩
    · exact .inr (.inl ⟨‹_›, ‹_›, by injection h with h; exact h.symm⟩)
  · exact .inr (.inr ⟨‹_›, by injection h with h; exact h.symm⟩)
  · cases h

/-- Everything the sending of a plane can do (R165, R173). -/
theorem sendPlane_cases {m : Memory} {p : BitVec 4} (h : s.sendPlane m p = .next t) :
    s.planesOk = true ∧
    ((turnGrain s.turn = .atOnce ∧ t = ((s.txc s.cfg.txplanePrefix .pump).txd m.bytes .pump).goto p) ∨
     (turnGrain s.turn = .stepwise ∧
      t = (s.enqueue .pump (framesOf false s.cfg.txplanePrefix ++ framesOf true m.bytes)).pumpAt .sent)) := by
  unfold State.sendPlane at h
  split at h <;> split at h
  · exact ⟨‹_›, .inl ⟨‹_›, by injection h with h; exact h.symm⟩⟩
  · cases h
  · exact ⟨‹_›, .inr ⟨‹_›, by injection h with h; exact h.symm⟩⟩
  · cases h

/-- Everything the checkpoint can do at once (R169). -/
theorem serveOne_cases (h : s.serveOne = .next t) :
    (s.copyPending = true ∧ s.planesOk = true ∧ t = s.composeAll.clearCopy.goto Ph.waitsub) ∨
    (s.copyPending = false ∧ ∃ lvl c, s.creq = some lvl ∧ contrastAt s.cfg lvl = some c ∧
      t = (s.recomputed c).clearCreq.goto Ph.waitsub) ∨
    (s.copyPending = false ∧ s.creq = none ∧ s.pendingCmd = true ∧
      t = (s.txc s.queuedBytes .pump).clearCmd.goto Ph.waitsub) ∨
    (s.copyPending = false ∧ s.creq = none ∧ s.pendingCmd = false ∧ t = s.goto Ph.waitsub) := by
  unfold State.serveOne at h
  split at h
  · split at h
    · exact .inl ⟨‹_›, ‹_›, by injection h with h; exact h.symm⟩
    · cases h
  · have hc : s.copyPending = false := by simpa using ‹¬s.copyPending = true›
    split at h
    · split at h
      · exact .inr (.inl ⟨hc, _, _, ‹_›, ‹_›, by injection h with h; exact h.symm⟩)
      · cases h
    · split at h
      · exact .inr (.inr (.inl ⟨hc, ‹_›, ‹_›, by injection h with h; exact h.symm⟩))
      · exact .inr (.inr (.inr ⟨hc, ‹_›, by simpa using ‹¬s.pendingCmd = true›,
          by injection h with h; exact h.symm⟩))

/-- Everything the taking of a turn can do (R9). -/
theorem takeTurn_cases (s : State) :
    (∃ u ts, s.sched = u :: ts ∧ s.takeTurn = { s with turn := u, sched := ts }) ∨
    (s.sched = [] ∧ s.takeTurn = { s with turn := Config.freeTurn s.draws, draws := s.draws + 1 }) := by
  unfold State.takeTurn
  split
  · exact .inl ⟨_, _, ‹_›, rfl⟩
  · exact .inr ⟨‹_›, rfl⟩

/-- Everything PUMP's turn can fetch (R160, R105). -/
theorem fetchPump_cases (s : State) :
    (∃ f rest, s.pumpTx = f :: rest ∧ fetchPump s = .run (decodeFrame f) { s with pumpTx := rest }) ∨
    (s.pumpTx = [] ∧ ∃ i, decodePhase s.ph = some i ∧ fetchPump s = .run i s) ∨
    (s.pumpTx = [] ∧ decodePhase s.ph = none ∧ fetchPump s = .reserved) := by
  unfold fetchPump
  split
  · exact .inl ⟨_, _, ‹_›, rfl⟩
  · split
    · exact .inr (.inl ⟨‹_›, _, ‹_›, rfl⟩)
    · exact .inr (.inr ⟨‹_›, ‹_›, rfl⟩)

/-- Everything HOST's turn can fetch (R38, R91, R102). -/
theorem fetchHost_cases (s : State) :
    (∃ f rest, s.hostTx = f :: rest ∧ fetchHost s = .run (decodeFrame f) { s with hostTx := rest }) ∨
    (s.hostTx = [] ∧ ∃ i, s.hop = some i ∧ fetchHost s = .run i s) ∨
    (s.hostTx = [] ∧ s.hop = none ∧ ∃ i rest, decodeHost s.hostIn = .ok i rest ∧ fetchHost s = .run i (s.accept i rest)) ∨
    (s.hostTx = [] ∧ s.hop = none ∧ ∃ why rest, decodeHost s.hostIn = .illegal why rest ∧
      fetchHost s = .quiet ({ s with hostIn := rest }.refuse .illegal)) ∨
    (s.hostTx = [] ∧ s.hop = none ∧ decodeHost s.hostIn = .waiting ∧ fetchHost s = .quiet s) := by
  unfold fetchHost
  split
  · exact .inl ⟨_, _, ‹_›, rfl⟩
  · split
    · exact .inr (.inl ⟨‹_›, _, ‹_›, rfl⟩)
    · split
      · exact .inr (.inr (.inl ⟨‹_›, ‹_›, _, _, ‹_›, rfl⟩))
      · exact .inr (.inr (.inr (.inl ⟨‹_›, ‹_›, _, _, ‹_›, rfl⟩)))
      · exact .inr (.inr (.inr (.inr ⟨‹_›, ‹_›, ‹_›, rfl⟩)))

/-- Owed plane accesses: none left ends the operation, some left keeps it in flight. -/
theorem oweWrites_nil (s : State) : s.oweWrites [] = s.respond .done := rfl

theorem oweWrites_of_ne {todo : List PlaneAct} (h : todo ≠ []) : s.oweWrites todo = s.hostAt (.writes todo) := by
  simp [State.oweWrites, h]

theorem oweCompose_nil (s : State) : s.oweCompose [] = s.pumpAt .clearCopy := rfl

theorem oweCompose_of_ne {todo : List ComposeItem} (h : todo ≠ []) :
    s.oweCompose todo = s.pumpAt (.compose todo) := by
  simp [State.oweCompose, h]

@[simp] theorem bringUp_nil (s : State) (who : Agent) : s.bringUp who [] = (s, none) := rfl

@[simp] theorem bringUp_res (s : State) (who : Agent) (level : Bool) (rest : List BringItem) :
    s.bringUp who (.res level :: rest) = (s.driveRes level).bringUp who rest := rfl

@[simp] theorem bringUp_wait (s : State) (who : Agent) (us : Nat) (rest : List BringItem) :
    s.bringUp who (.wait us :: rest) = (s.beginWait us, some rest) := rfl

@[simp] theorem bringUp_cmd (s : State) (who : Agent) (b : Byte) (rest : List BringItem) :
    s.bringUp who (.cmd b :: rest) = (s.txc [b] who).bringUp who rest := rfl

/-- Everything one item of a bring-up can do (R194). -/
theorem bringItem_cases (s : State) (who : Agent) (items : List BringItem) :
    (items = [] ∧ s.bringItem who items = (s, none)) ∨
    (∃ level rest, items = .res level :: rest ∧ s.bringItem who items = (s.driveRes level, some rest)) ∨
    (∃ us rest, items = .wait us :: rest ∧ s.bringItem who items = (s.beginWait us, some rest)) ∨
    (∃ b rest, items = .cmd b :: rest ∧ s.bringItem who items = (s.enqueue who [frameBits false b], some rest)) := by
  match items with
  | [] => exact .inl ⟨rfl, rfl⟩
  | .res level :: rest => exact .inr (.inl ⟨level, rest, rfl, rfl⟩)
  | .wait us :: rest => exact .inr (.inr (.inl ⟨us, rest, rfl, rfl⟩))
  | .cmd b :: rest => exact .inr (.inr (.inr ⟨b, rest, rfl, rfl⟩))

@[simp] theorem startOwes_some (s : State) (items : List BringItem) :
    State.startOwes (s, some items) = s.hostAt (.bring items) := rfl

@[simp] theorem startOwes_none (s : State) : State.startOwes (s, none) = s.release := rfl

@[simp] theorem bringupOwes_some (s : State) (items : List BringItem) :
    State.bringupOwes (s, some items) = s.pumpAt (.bring items) := rfl

@[simp] theorem bringupOwes_none (s : State) : State.bringupOwes (s, none) = s.broughtUp := rfl

/-- A one-byte burst is one frame with none behind it (R191, R192). -/
theorem sendBurst_singleton (s : State) (dc : Bool) (b : Byte) (who : Agent) :
    s.sendBurst dc [b] who = s.sendByte dc b who false := rfl

/-- Every memory operation keeps the canonical form of all five planes. -/
theorem planesOk_putLogical (p : LogicalPlane) (i : Nat) (v : Byte) (h : s.planesOk = true) :
    (s.putLogical p i v).planesOk = true := by
  rw [State.planesOk_iff] at h ⊢
  cases p <;> simp [Memory.wf_write, h]

theorem planesOk_plotPixel (x y : Nat) (sh : BitVec 2) (h : s.planesOk = true) :
    (s.plotPixel x y sh).planesOk = true := by
  rw [State.planesOk_iff] at h ⊢
  simp [Memory.wf_write, h]

theorem planesOk_fillPlanes (sh : BitVec 2) (h : s.planesOk = true) : (s.fillPlanes sh).planesOk = true := by
  rw [State.planesOk_iff] at h ⊢
  simp [h]

theorem planesOk_composeAll (h : s.planesOk = true) : s.composeAll.planesOk = true := by
  rw [State.planesOk_iff] at h ⊢
  simp [h]

theorem planesOk_putDerived (i : Nat) (a b : Byte) (h : s.planesOk = true) : (s.putDerived i a b).planesOk = true := by
  rw [State.planesOk_iff] at h ⊢
  simp [Memory.wf_write, h]

end Sys2Proof.Machine
end

