-- ==== Sys2Proof/Laws/PerInstr.lean ====
section
/-! SUPPORT. A statement about every operation as syntax: its code selects its own row of the opcode table (R101). -/

namespace Sys2Proof.Laws

/-- The first word of an operation's code selects the operation's host row, or the operation has none. -/
def MatchesRow.selected (r : Option HostRow) (c : Code) : Bool :=
  match r, c with
  | none, .phase _ => true
  | none, .frame _ => true
  | some r, .host (w :: _) => r.selects w
  | _, _ => false

/-- The operation's code is in its layer and its first word selects its row (R90, R101). -/
def MatchesRow.Statement (i : Instr) : Prop := MatchesRow.selected i.hostRow (encode i) = true

theorem MatchesRow.fill (sh : BitVec 2) : MatchesRow.Statement (.fill sh) := by
  revert sh; unfold MatchesRow.Statement; decide

/-- Masked with `m`, a word of format HL or HQ keeps its opcode and zeros (R91). -/
theorem wordHL_selects (op : BitVec 4) (v : Byte) : wordHL op v &&& 0xFFFFFF00#32 = op ++ 0#28 := by
  unfold wordHL
  apply BitVec.eq_of_getLsbD_eq
  intro i hi
  have h : (0xFFFFFF00#32).getLsbD i = decide (8 ≤ i) := by
    have : ∀ j, j < 32 → (0xFFFFFF00#32).getLsbD j = decide (8 ≤ j) := by decide
    exact this i hi
  simp only [BitVec.getLsbD_and, BitVec.getLsbD_append, h, BitVec.getLsbD_zero]
  rcases Nat.lt_or_ge i 8 with h8 | h8
  · have h28 : i < 28 := by omega
    simp [show ¬ 8 ≤ i by omega, h28]
  · rcases Nat.lt_or_ge i 28 with h28 | h28
    · simp [h8, show ¬ i < 8 by omega, h28, show i - 8 < 20 by omega]
    · simp [h8, show ¬ i < 8 by omega, show ¬ i < 28 by omega, show ¬ i - 8 < 20 by omega,
        show i - 8 - 20 = i - 28 by omega]

theorem MatchesRow.pixel (x y : BitVec 12) (sh : BitVec 2) : MatchesRow.Statement (.pixel x y sh) := by
  have h : wordHP 2#4 x y sh &&& 0xF000000C#32 = 0x20000000#32 := by
    unfold wordHP
    apply BitVec.eq_of_getLsbD_eq
    intro i hi
    have hm : (0xF000000C#32).getLsbD i = (decide (i = 2) || decide (i = 3) || decide (28 ≤ i)) := by
      have : ∀ j, j < 32 → (0xF000000C#32).getLsbD j = (decide (j = 2) || decide (j = 3) || decide (28 ≤ j)) := by
        decide
      exact this i hi
    have hp : (0x20000000#32).getLsbD i = decide (i = 29) := by
      have : ∀ j, j < 32 → (0x20000000#32).getLsbD j = decide (j = 29) := by decide
      exact this i hi
    have h2 : ∀ j, j < 4 → (2#4).getLsbD j = decide (j = 1) := by decide
    simp only [BitVec.getLsbD_and, BitVec.getLsbD_append, hm, hp, BitVec.getLsbD_zero]
    rcases Nat.lt_or_ge i 28 with h28 | h28
    · rcases Nat.lt_or_ge i 2 with a | a
      · simp [show i ≠ 2 by omega, show i ≠ 3 by omega, show ¬ 28 ≤ i by omega, show i ≠ 29 by omega]
      · rcases Nat.lt_or_ge i 4 with b | b
        · simp [show ¬ i < 2 by omega, show i - 2 < 2 by omega, show i ≠ 29 by omega]
        · simp [show i ≠ 2 by omega, show i ≠ 3 by omega, show ¬ 28 ≤ i by omega, show i ≠ 29 by omega]
    · simp [show ¬ i < 2 by omega, show ¬ i - 2 < 2 by omega, show ¬ i - 2 - 2 < 12 by omega,
        show ¬ i - 2 - 2 - 12 < 12 by omega, h28, h2 (i - 2 - 2 - 12 - 12) (by omega)]
      omega
  simp [MatchesRow.Statement, MatchesRow.selected, Instr.hostRow, hostTable, encode, HostRow.selects, h]

theorem MatchesRow.showSync : MatchesRow.Statement .showSync := by unfold MatchesRow.Statement; decide
theorem MatchesRow.showAsync : MatchesRow.Statement .showAsync := by unfold MatchesRow.Statement; decide
theorem MatchesRow.contrast (lvl : Byte) : MatchesRow.Statement (.contrast lvl) := by
  simp [MatchesRow.Statement, MatchesRow.selected, Instr.hostRow, hostTable, encode, HostRow.selects, wordHL_selects]
theorem MatchesRow.contrastSync (lvl : Byte) : MatchesRow.Statement (.contrastSync lvl) := by
  simp [MatchesRow.Statement, MatchesRow.selected, Instr.hostRow, hostTable, encode, HostRow.selects, wordHL_selects]
theorem MatchesRow.start : MatchesRow.Statement .start := by unfold MatchesRow.Statement; decide
theorem MatchesRow.teardown : MatchesRow.Statement .teardown := by unfold MatchesRow.Statement; decide
theorem MatchesRow.command (bytes : List Byte) : MatchesRow.Statement (.command bytes) := by
  simp [MatchesRow.Statement, MatchesRow.selected, Instr.hostRow, hostTable, encode, HostRow.selects, wordHL_selects]
theorem MatchesRow.rdstat : MatchesRow.Statement .rdstat := by unfold MatchesRow.Statement; decide
theorem MatchesRow.idle : MatchesRow.Statement .idle := rfl
theorem MatchesRow.bringup : MatchesRow.Statement .bringup := rfl
theorem MatchesRow.park : MatchesRow.Statement .park := rfl
theorem MatchesRow.waitpre : MatchesRow.Statement .waitpre := rfl
theorem MatchesRow.txplane : MatchesRow.Statement .txplane := rfl
theorem MatchesRow.cadj1 : MatchesRow.Statement .cadj1 := rfl
theorem MatchesRow.resume : MatchesRow.Statement .resume := rfl
theorem MatchesRow.cadj2 : MatchesRow.Statement .cadj2 := rfl
theorem MatchesRow.maint : MatchesRow.Statement .maint := rfl
theorem MatchesRow.waitsub : MatchesRow.Statement .waitsub := rfl
theorem MatchesRow.next : MatchesRow.Statement .next := rfl
theorem MatchesRow.blank : MatchesRow.Statement .blank := rfl
theorem MatchesRow.txfinal : MatchesRow.Statement .txfinal := rfl
theorem MatchesRow.setstop : MatchesRow.Statement .setstop := rfl
theorem MatchesRow.halt : MatchesRow.Statement .halt := rfl
theorem MatchesRow.txc (b : Byte) : MatchesRow.Statement (.txc b) := rfl
theorem MatchesRow.txd (b : Byte) : MatchesRow.Statement (.txd b) := rfl

end Sys2Proof.Laws
end

