-- ==== Sys2Proof/Safety.lean ====
section
/-! DEFINITION. What counts as a well-placed state and a safe run, in the terms the statements use. -/

namespace Sys2Proof.Machine

/-! ## Where the pump may stand -/

/-- The pump is inside a micro-operation that has handed frames to the bus. -/
def PumpPhase.sends : PumpPhase → Bool
  | .sent | .bring _ | .clearCmd => true
  | .start | .compose _ | .clearCopy | .readCreq | .recompute _ | .clearCreq | .readCmd => false

/-- The pump is inside MAINT, after its first read. -/
def PumpPhase.inMaint : PumpPhase → Bool
  | .compose todo => !todo.isEmpty && todo.all fun it => decide (it.idx < planeBytes)
  | .clearCopy | .readCreq | .recompute _ | .clearCreq | .readCmd | .clearCmd => true
  | .start | .sent | .bring _ => false

/-- COMPOSE runs or has just run: COPYPENDING was read as 1 and is not yet cleared (R169). -/
def PumpPhase.holdsCopy : PumpPhase → Bool
  | .compose _ | .clearCopy => true
  | _ => false

/-- CREQ was read as some level and is not yet cleared (R169). -/
def PumpPhase.holdsCreq : PumpPhase → Bool
  | .recompute _ | .clearCreq => true
  | _ => false

/-- BRINGUP still owes bring-up items (R162, R194). -/
def PumpPhase.brings : PumpPhase → Bool
  | .bring _ => true
  | _ => false

/-- The loop of the outer cycle runs in the states Running and Stopping only (R231). -/
def RunState.looping (r : RunState) : Bool := r == .running || r == .stopping

/-- Which places inside a micro-operation, run states and subframe indices go with each value of PH
(R104, R160, R176, R231). -/
def pumpPlaceOk (p : BitVec 4) (q : PumpPhase) (r : RunState) (f : Fin 3) : Bool :=
  match p.toNat with
  | 0 => q == .start && (r == .waiting || r.looping) && f == 0
  | 1 => (match q with | .start | .bring _ => true | _ => false) && r == .starting && f == 0
  | 2 | 4 | 5 | 6 | 7 => (q == .start || q == .sent) && r.looping
  | 3 | 9 | 10 => q == .start && r.looping
  | 8 => (q == .start || (q.inMaint && f == 2)) && r.looping
  | 11 | 13 => q == .start && r == .stopping && f == 0
  | 12 => (q == .start || q == .sent) && r == .stopping && f == 0
  | 14 => q == .start && r == .stopped && f == 0
  | _ => false

/-! ## Where the host may stand -/

/-- The index a plane access goes to. -/
def PlaneAct.index : PlaneAct → Nat
  | .put _ i _ => i
  | .change _ i _ _ => i

/-- Plane accesses owed: some are, and each goes to an index that exists (R62). -/
def owedOk (todo : List PlaneAct) : Bool :=
  !todo.isEmpty && todo.all fun a => decide (a.index < planeBytes)

/-- Which HPH goes with which operation in flight (R38, R143, R147, R148), under a configuration. -/
def hostPlaceOk (c : Cfg) (hop : Option Instr) (h : HostPhase) : Bool :=
  match hop with
  | none => h == .issue
  | some i =>
    i.layer == .host && i.wf &&
    match h with
    | .issue => true
    | .writes todo => (match i with | .fill _ | .pixel _ _ _ => true | _ => false) && owedOk todo
    | .readRun => match i with | .showSync | .contrastSync _ => true | _ => false
    | .poll => match i with | .showSync | .contrastSync _ | .teardown => true | _ => false
    | .bring _ => i == .start && c.startMode == .delayed
    | .awaitRunning | .stop | .restore | .finish => i == .teardown
    | .queue | .setFlag => match i with | .command bytes => lengthOk c bytes | _ => false
    | .stat1 _ | .stat2 _ _ | .stat3 _ _ _ => i == .rdstat

/-- Which run states go with HPH (R141, R143, R147, R148, R149, R231). -/
def hostRunOk (hop : Option Instr) (h : HostPhase) (r : RunState) : Bool :=
  match h with
  | .poll => if hop = some .teardown then r == .stopping || r == .stopped else r == .running
  | .bring _ => r == .waiting
  | .awaitRunning => r == .starting || r == .running
  | .stop => r == .running
  | .restore | .finish => r == .stopped
  | _ => true

/-- The host is inside an operation that has handed frames to the bus. -/
def HostPhase.sends : HostPhase → Bool
  | .bring _ | .finish => true
  | _ => false

/-- START still owes bring-up items (R141, R194). -/
def HostPhase.brings : HostPhase → Bool
  | .bring _ => true
  | _ => false

/-- COMMAND has read PENDINGCMD = 0 and has not yet set it (R150, R263). -/
def HostPhase.fillsQueue : HostPhase → Bool
  | .queue | .setFlag => true
  | _ => false

/-! ## The invariant -/

/-- The invariant of every run from construction. -/
structure Inv (s : State) : Prop where
  /-- Every claim is under ConfigOK (R221). -/
  cfgOk : s.cfg.ok = true
  /-- The planes are in canonical form (R62). -/
  planes : s.planesOk = true
  /-- CMDQ has CMDQ_MAX bytes (R29). -/
  queueSize : s.cmdq.length = s.cfg.cmdqMax
  /-- CMDQ_LEN is at most CMDQ_MAX (R29). -/
  queueLen : s.cmdqLen.toNat ≤ s.cfg.cmdqMax
  /-- PH is no reserved code, SF is 0 outside the subframe, the run state fits the phase (R104, R176, R231). -/
  pumpPlace : pumpPlaceOk s.ph s.pph s.runState s.sf = true
  /-- The pump has frames on the bus only inside a sending micro-operation. -/
  pumpBus : s.pumpTx ≠ [] → s.pph.sends = true
  /-- HPH belongs to the operation in flight (R38). -/
  hostPlace : hostPlaceOk s.cfg s.hop s.hph = true
  /-- The run state fits HPH (R231). -/
  hostRun : hostRunOk s.hop s.hph s.runState = true
  /-- The host has frames on the bus only inside START's bring-up or TEARDOWN's restore (R200). -/
  hostBus : s.hostTx ≠ [] → s.hph.sends = true
  /-- The host never has a display-memory frame on the bus (R192, R201). -/
  hostFrames : ∀ f ∈ s.hostTx, f.getLsbD 8 = false
  /-- Stopping "exists only while TEARDOWN is in flight" (R231). -/
  stopping : s.runState = .stopping → s.hop = some .teardown ∧ s.hph = .poll
  /-- Only the pump clears COPYPENDING (R24). -/
  copyHeld : s.pph.holdsCopy = true → s.copyPending = true
  /-- Only the pump clears CREQ (R26). -/
  creqHeld : s.pph.holdsCreq = true → s.creq.isSome = true
  /-- Only the pump clears PENDINGCMD (R25). -/
  cmdHeld : s.pph = .clearCmd → s.pendingCmd = true
  /-- The queue is written only while PENDINGCMD = 0 (R29, R263). -/
  cmdFree : s.hph.fillsQueue = true → s.pendingCmd = false
  /-- A `wait` item is under way only inside a bring-up (R194). -/
  waitUnderWay : s.waitLeft ≠ 0 → s.hph.brings = true ∨ s.pph.brings = true

/-- The fixed micro-program: PH and SF go from their values in `s` to those in `t` by its listing (R160, R104, R112). -/
def FollowsProgram (s t : State) : Prop :=
  match s.ph.toNat with
  | 0 => s.runState ≠ .waiting ∧ t.ph = 2#4 ∧ t.sf = 0
  | 1 => t.ph = 2#4 ∧ t.sf = 0
  | 3 => s.ts1 + s.cfg.tPreUs ≤ s.now ∧ t.ph = 4#4 ∧ t.sf = s.sf
  | 9 => s.ts3 + s.cfg.tSubUs ≤ s.now ∧ t.ph = 10#4 ∧ t.sf = s.sf
  | 10 =>
    if s.sf = 2 then t.ph = (if s.runState = .stopping then 11#4 else 2#4) ∧ t.sf = 0
    else t.ph = 2#4 ∧ t.sf = s.sf + 1
  | 2 | 4 | 5 | 6 | 7 | 8 | 11 | 12 | 13 => t.ph = s.ph + 1#4 ∧ t.sf = s.sf
  | _ => False

/-! ## Agreement of two states, for frames -/

/-- The logical planes are equal. -/
def SameLogical (s t : State) : Prop := t.la = s.la ∧ t.lb = s.lb

/-- The derived planes are equal. -/
def SameDerived (s t : State) : Prop := t.dp0 = s.dp0 ∧ t.dp1 = s.dp1 ∧ t.dp2 = s.dp2

/-- The four cells are equal. -/
def SameCells (s t : State) : Prop :=
  t.runState = s.runState ∧ t.copyPending = s.copyPending ∧ t.pendingCmd = s.pendingCmd ∧ t.creq = s.creq

/-- CADJ, CMDQ and CMDQ_LEN are equal. -/
def SameRegisters (s t : State) : Prop := t.cadj = s.cadj ∧ t.cmdq = s.cmdq ∧ t.cmdqLen = s.cmdqLen

/-- TS1 and TS3 are equal. -/
def SameStamps (s t : State) : Prop := t.ts1 = s.ts1 ∧ t.ts3 = s.ts3

/-- The pump stands at the same place. -/
def SamePlace (s t : State) : Prop := t.ph = s.ph ∧ t.sf = s.sf ∧ t.pph = s.pph

/-- Nothing happened on the bus: lines, log and pending frames are equal. -/
def SameBus (s t : State) : Prop :=
  t.sdo = s.sdo ∧ t.sck = s.sck ∧ t.dc = s.dc ∧ t.cs = s.cs ∧ t.res = s.res ∧ t.busLog = s.busLog
    ∧ t.hostTx = s.hostTx ∧ t.pumpTx = s.pumpTx

/-- The host port is the same: operation in flight, its place, and the responses given. -/
def SamePort (s t : State) : Prop := t.hop = s.hop ∧ t.hph = s.hph ∧ t.responses = s.responses

/-- Configuration, time base, the time a bring-up still waits, waiting words and turns are equal. -/
def SameAround (s t : State) : Prop :=
  t.cfg = s.cfg ∧ t.now = s.now ∧ t.waitLeft = s.waitLeft ∧ t.hostIn = s.hostIn ∧ t.turn = s.turn ∧ t.sched = s.sched ∧ t.draws = s.draws

/-- The operation in flight has ended with response `r` (R96). -/
def Responded (s t : State) (r : Response) : Prop :=
  t.hop = none ∧ t.hph = .issue ∧ t.responses = s.responses ++ [r]

/-- Nothing but the host port changed: the whole effect is the response. -/
def OnlyResponded (s t : State) (r : Response) : Prop :=
  Responded s t r ∧ SameLogical s t ∧ SameDerived s t ∧ SameCells s t ∧ SameRegisters s t ∧ SameStamps s t
    ∧ SamePlace s t ∧ SameBus s t ∧ SameAround s t

/-- No state changed at all but what the pump did to its own sequencing and the bus: for the sending micro-operations. -/
def PumpFrame (s t : State) : Prop :=
  SameLogical s t ∧ SameDerived s t ∧ SameCells s t ∧ SameRegisters s t ∧ SamePort s t ∧ SameAround s t
    ∧ t.hostTx = s.hostTx ∧ t.pumpTx = s.pumpTx ∧ t.res = s.res

/-- The pump went to the beginning of the micro-operation of code `p`. -/
def PumpAt (t : State) (p : BitVec 4) : Prop := t.ph = p ∧ t.pph = .start

/-- The level SCK rests at (R193; log 14 in clock modes 1 to 3). -/
def sckRest (c : Cfg) : Bool := c.clkMode == .mode2 || c.clkMode == .mode3

/-- The bit of a byte that leaves last (R193), which SDO keeps (log 14). -/
def lastBitSent (c : Cfg) (b : Byte) : Bool :=
  match c.bitOrder with
  | .msbFirst => b.getLsbD 0
  | .lsbFirst => b.getLsbD 7

/-- The lines a burst leaves behind (R191, R193; SDO, and SCK in clock modes 1 to 3, by log 14). -/
def LinesAfter (s t : State) (dc : Bool) (bytes : List Byte) : Prop :=
  match bytes.getLast? with
  | none => t.dc = s.dc ∧ t.cs = s.cs ∧ t.sck = s.sck ∧ t.sdo = s.sdo
  | some b =>
    t.dc = dc ∧ t.cs = (!s.cfg.csActive) ∧ t.sck = sckRest s.cfg ∧ t.sdo = lastBitSent s.cfg b

/-- The events of a burst (R191, R192). -/
def burstEvents (dc : Bool) (bytes : List Byte) (who : Agent) : List BusEvent :=
  bytes.map fun b => .byte dc b who

/-- The events of BringUp(agent) (R194). -/
def bringEvents (who : Agent) : List BringItem → List BusEvent
  | [] => []
  | .res level :: rest => .res level :: bringEvents who rest
  | .wait _ :: rest => bringEvents who rest
  | .cmd b :: rest => .byte false b who :: bringEvents who rest

/-- The level of RES after the items, from the level before (R194). -/
def bringRes (level : Bool) : List BringItem → Bool
  | [] => level
  | .res l :: rest => bringRes l rest
  | .wait _ :: rest => bringRes level rest
  | .cmd _ :: rest => bringRes level rest

/-- The command bytes of the items, in order (R194). -/
def bringCmds : List BringItem → List Byte
  | [] => []
  | .res _ :: rest => bringCmds rest
  | .wait _ :: rest => bringCmds rest
  | .cmd b :: rest => b :: bringCmds rest

/-- The microseconds the `wait` items ask for (R194). -/
def bringWaits : List BringItem → Nat
  | [] => 0
  | .res _ :: rest => bringWaits rest
  | .wait us :: rest => us + bringWaits rest
  | .cmd _ :: rest => bringWaits rest

/-- The items before the first `wait`: what a bring-up does without letting time pass (R194). -/
def bringHead : List BringItem → List BringItem
  | [] => []
  | .res level :: rest => .res level :: bringHead rest
  | .wait _ :: _ => []
  | .cmd b :: rest => .cmd b :: bringHead rest

/-- The first `wait`: its microseconds and the items behind it; none where no item is a `wait` (R194). -/
def bringWaitAt : List BringItem → Option (Nat × List BringItem)
  | [] => none
  | .res _ :: rest => bringWaitAt rest
  | .wait us :: rest => some (us, rest)
  | .cmd _ :: rest => bringWaitAt rest

/-- What the items have put on the bus: events, lines and RES (R194; SDO, and SCK in clock modes 1 to 3, by log 14). -/
def Brought (who : Agent) (items : List BringItem) (s t : State) : Prop :=
  t.busLog = s.busLog ++ bringEvents who items ∧ LinesAfter s t false (bringCmds items) ∧
    t.res = bringRes s.res items ∧ t.hostTx = s.hostTx ∧ t.pumpTx = s.pumpTx

/-- What a bring-up may not change: planes, registers, stamps, requests, configuration, words at the port (R141, R162). -/
def BringFrame (s t : State) : Prop :=
  SameLogical s t ∧ SameDerived s t ∧ SameRegisters s t ∧ SameStamps s t ∧ t.copyPending = s.copyPending ∧
    t.pendingCmd = s.pendingCmd ∧ t.creq = s.creq ∧ t.cfg = s.cfg ∧ t.hostIn = s.hostIn ∧ t.draws = s.draws

/-! ## Derived planes -/

/-- At index i the derived planes are `A | B`, `B`, `A & B` of the logical planes (R131). -/
def DerivedAt (s : State) (i : Nat) : Prop :=
  s.dp0.byteAt i = s.la.byteAt i ||| s.lb.byteAt i ∧ s.dp1.byteAt i = s.lb.byteAt i
    ∧ s.dp2.byteAt i = s.la.byteAt i &&& s.lb.byteAt i

/-- At index i every bit on in DP[2] is on in DP[1], and every bit on in DP[1] is on in DP[0] (R135). -/
def ContainedAt (s : State) (i : Nat) : Prop :=
  s.dp2.byteAt i &&& ~~~(s.dp1.byteAt i) = 0#8 ∧ s.dp1.byteAt i &&& ~~~(s.dp0.byteAt i) = 0#8

/-- The derived planes match the logical planes (R75). -/
def DerivedMatch (s : State) : Prop := ∀ i, i < planeBytes → DerivedAt s i

/-- A COMPOSE under way has, so far, worked on the logical planes as they are now. -/
def ComposeTracks (s : State) : Prop :=
  match s.pph with
  | .compose todo =>
    (∀ i, i < planeBytes → (∀ it ∈ todo, it.idx ≠ i) → DerivedAt s i) ∧
    (∀ it ∈ todo, (it.a = none ∨ it.a = some (s.la.byteAt it.idx)) ∧ (it.b = none ∨ it.b = some (s.lb.byteAt it.idx)))
  | .clearCopy => DerivedMatch s
  | _ => True

/-- The request is written and its operation tests RUNSTATE next, or waits (R143, R147). -/
def HostPhase.requested (h : HostPhase) : Prop := h = .readRun ∨ h = .poll

/-- SHOW has written its request, and its guarantee is under way: either the request is unserved and any COMPOSE that
serves it works on the planes as they are, or it is served and the derived planes match (R75). -/
def ShowGuard (s : State) : Prop :=
  Inv s ∧ s.hop = some .showSync ∧ s.hph.requested ∧
    ((s.copyPending = true ∧ ComposeTracks s) ∨ (s.copyPending = false ∧ DerivedMatch s))

/-- CONTRASTS has written its request, and its guarantee is under way: its own level is requested and any service of it
takes that level, or it is served and CADJ is its CONTRAST_MAP (R147). -/
def ContrastGuard (lvl : Byte) (s : State) : Prop :=
  Inv s ∧ s.hop = some (.contrastSync lvl) ∧ s.hph.requested ∧
    ((s.creq = some lvl ∧ (∀ l, s.pph = .recompute l → l = lvl)
        ∧ (s.pph = .clearCreq → contrastAt s.cfg lvl = some s.cadj))
      ∨ (s.creq = none ∧ contrastAt s.cfg lvl = some s.cadj))

/-! ## Runs -/

/-- One operation run once for each pick, each time in a turn `mk pick`, with no other agent's turn between. -/
def runTurns (i : Instr) (mk : Nat → Turn) : List Nat → State → Result
  | [], s => .next s
  | k :: ks, s =>
    match exec i { s with turn := mk k } with
    | .next t => runTurns i mk ks t
    | .fault r => .fault r
    | .refused r => .refused r

/-- The turn of `s` runs operation `i`: the one in flight, the one at the port, the one PH names, or a pending frame's. -/
def Runs (s : State) (i : Instr) : Prop := ∃ u, fetch s.takeTurn = .run i u

/-- The turn of `s` runs one of the four operations that read `now` (R46). -/
def ReadsNow (s : State) : Prop := Runs s .park ∨ Runs s .txplane ∨ Runs s .waitpre ∨ Runs s .waitsub

/-- The step from `s` to `t` is one of a bring-up: START's by HOST in Waiting, or BRINGUP's by PUMP in Starting
(R194, R195). -/
def BringsUp (s t : State) : Prop :=
  (s.runState = .waiting ∧ Runs s .start ∧ ∃ g k, t.turn = .host g k) ∨
  (s.runState = .starting ∧ s.ph = 1#4 ∧ ∃ g k, t.turn = .pump g k)

/-- Two states equal but for the turn being taken. -/
def EqUpToTurn (s t : State) : Prop := t = { s with turn := t.turn }

/-- The given turns, taken by `step` one after the other from `s`, come to the state of operation `i` run in the one turn
`once`, but for the turn recorded. -/
def TurnsComeTo (s : State) (turns : List Turn) (i : Instr) (once : Turn) : Prop :=
  ∀ ts : List Turn, ∃ t u,
    Host.Core.run core turns.length { s with sched := turns ++ ts } = .next t ∧
    exec i { s with turn := once, sched := ts } = .next u ∧ EqUpToTurn u t

/-- Both lists of turns, each taken by `step` from `s` one after the other, come to the same state, but for the turn
recorded. -/
def TurnsAgree (s : State) (turns turns' : List Turn) : Prop :=
  ∀ ts : List Turn, ∃ t u,
    Host.Core.run core turns.length { s with sched := turns ++ ts } = .next t ∧
    Host.Core.run core turns'.length { s with sched := turns' ++ ts } = .next u ∧ EqUpToTurn u t

/-- The turns a bring-up takes step by step, in turns `mk` of its agent: one for a `res`, one and the time behind it for a
`wait`, one to hand over and one to shift out for a `cmd`, and one to end it (R194; log 13, log 23). -/
def bringTurns (mk : Turn) : List BringItem → List Turn
  | [] => [mk]
  | .res _ :: rest => mk :: bringTurns mk rest
  | .wait us :: rest => mk :: .timebase us :: bringTurns mk rest
  | .cmd _ :: rest => mk :: mk :: bringTurns mk rest

/-- The turns a bring-up takes at once: one up to each `wait` with the time behind it, and one to the end (R194; log 3). -/
def onceTurns (mk : Turn) : List BringItem → List Turn
  | [] => [mk]
  | .res _ :: rest => onceTurns mk rest
  | .wait us :: rest => mk :: .timebase us :: onceTurns mk rest
  | .cmd _ :: rest => onceTurns mk rest

/-- The turns of one subframe in which no deadline is missed: PARK, the pre-subframe budget, WAITPRE, TXPLANE, CADJ1,
RESUME, CADJ2, MAINT, the subframe budget, WAITSUB, NEXT (R198, R271). -/
def subframeTurns (c : Cfg) : List Turn :=
  [.pump .atOnce 0, .timebase c.tPreUs, .pump .atOnce 0, .pump .atOnce 0, .pump .atOnce 0, .pump .atOnce 0,
   .pump .atOnce 0, .pump .atOnce 0, .timebase c.tSubUs, .pump .atOnce 0, .pump .atOnce 0]

/-- The turns of an outer cycle: three subframes (R77, R271). -/
def cycleTurns (c : Cfg) : List Turn := subframeTurns c ++ subframeTurns c ++ subframeTurns c

/-- The bytes MAINT sends in a state: the queue, only at the checkpoint and only if no other request is served (R169). -/
def maintBytes (s : State) : List Byte :=
  if s.sf = 2 ∧ s.copyPending = false ∧ s.creq = none ∧ s.pendingCmd = true then s.queuedBytes else []

/-- The bus events of subframe k, in order, but for what MAINT sends (R177). -/
def subframeEvents (s : State) (k : Fin 3) : List BusEvent :=
  burstEvents false s.cfg.parkSeq .pump ++ burstEvents false s.cfg.txplanePrefix .pump
    ++ burstEvents true (s.derived k).bytes .pump ++ burstEvents false (pairBytes s.cadj k) .pump
    ++ burstEvents false s.cfg.resumeSeq .pump ++ burstEvents false (pairBytes s.cadj k) .pump

/-- An at-once turn at the beginning of a host operation. -/
def AtIssue (s : State) : Prop := s.hph = .issue ∧ turnGrain s.turn = .atOnce

/-- An at-once turn at the beginning of a micro-operation. -/
def AtStart (s : State) : Prop := s.pph = .start ∧ turnGrain s.turn = .atOnce

end Sys2Proof.Machine
end

