-- ==== Sys2Proof/Certificates/Slice0/Obligations.lean ====
section
/-! DEFINITION. The statements for the provers. Each docstring names the rules of spec/ it formalises. -/

open Sys2Proof Sys2Proof.Machine

/-! ## Encodings -/

/-- R100, R91, R92, R94, R98, R99: worked encodings, word by word. -/
def Obligations.WrittenWordsDecode : Prop :=
  decodeHost [0x10000003#32] = .ok (.fill 3#2) [] ∧
  decodeHost [0x200A00D2#32] = .ok (.pixel 10#12 13#12 2#2) [] ∧
  decodeHost [0x2FFF0003#32] = .ok (.pixel 0xFFF#12 0#12 3#2) [] ∧
  decodeHost [0x30000000#32] = .ok .showSync [] ∧
  decodeHost [0x50000080#32] = .ok (.contrast 128#8) [] ∧
  decodeHost [0x90000003#32, 0x00A67F81#32] = .ok (.command [0x81#8, 0x7F#8, 0xA6#8]) [] ∧
  decodeHost [0x90000005#32, 0x04030201#32, 0x00000005#32] = .ok (.command [1#8, 2#8, 3#8, 4#8, 5#8]) [] ∧
  decodeHost [0x00000000#32] = .illegal .reservedOpcode [] ∧
  decodeHost [0x30000001#32] = .illegal .reservedBit [] ∧
  decodeHost [0x10000004#32] = .illegal .reservedBit [] ∧
  decodeHost [0x90000001#32, 0x0000A7A7#32] = .illegal .padding [] ∧
  decodePhase 8#4 = some .maint ∧ decodeFrame 0x081#9 = .txc 0x81#8 ∧ decodeFrame 0x1FF#9 = .txd 0xFF#8

/-- R91, R92, R98, R99: the words of a well-formed host operation, with any words after them, decode to it and leave
those words. -/
def Obligations.HostDecodeReadsEncodedWords : Prop :=
  ∀ (i : Instr) (ws rest : List HWord), i.wf = true → encode i = .host ws → decodeHost (ws ++ rest) = .ok i rest

/-- R90, R103, R105: decoding reverses encoding in all three layers. -/
def Obligations.DecodeReversesEncode : Prop :=
  ∀ i : Instr, i.wf = true → decode (encode i) = .ok i

/-- R91, R98, R99, R103, R105: what decodes is well-formed and was its operation's code; only PH = 15 names no
micro-operation (R176). -/
def Obligations.DecodedWordsAreTheOperationsCode : Prop :=
  (∀ (ws rest : List HWord) (i : Instr), decodeHost ws = .ok i rest →
    i.wf = true ∧ ∃ code, encode i = .host code ∧ ws = code ++ rest) ∧
  (∀ (p : BitVec 4) (i : Instr), decodePhase p = some i → encode i = .phase p) ∧
  (∀ p : BitVec 4, decodePhase p = none ↔ p = 15#4) ∧
  (∀ f : Frame, encode (decodeFrame f) = .frame f)

/-- R101, R102: a word selects at most one row of the table, and it is illegal, whatever follows it, exactly when it
selects none. That an illegal COMMAND header leaves all the words after it, payload words too, is the model's choice
(log 10). -/
def Obligations.WordIsIllegalUnlessOneRowSelectsIt : Prop :=
  ∀ w : HWord,
    (hostTable.filter fun r => r.selects w).length ≤ 1 ∧
    ((∀ r ∈ hostTable, r.selects w = false) ↔
      ∃ why, why ≠ Illegal.padding ∧ ∀ rest, decodeHost (w :: rest) = .illegal why rest)

/-- R102, R99, R222: an illegal word (reserved opcode, reserved bit, non-zero padding) is answered ERR(E_ILLEGAL); nothing
else changes, but the words are taken from the port and the turn from the schedule. How many words an illegal COMMAND takes with it is
the model's choice (log 10). -/
def Obligations.IllegalWordChangesNothing : Prop :=
  ∀ (s : State) (g : Grain) (k : Nat) (ts : List Turn) (why : Illegal) (rest : List HWord),
    s.sched = .host g k :: ts → s.hostTx = [] → s.hop = none → s.hph = .issue →
    decodeHost s.hostIn = .illegal why rest →
    step s = .next { s with turn := .host g k, sched := ts, hostIn := rest,
                            responses := s.responses ++ [.err .illegal] }

/-! ## Turns -/

/-- A turn runs its operation, in seven clauses. R38, R74, R91: a HOST turn runs the operation in flight, or takes the
operation whose words stand at the idle port and runs it; while no whole operation stands there, none at all or a COMMAND
whose payload has not all arrived, it changes nothing (the model's choice, log 9 and log 15). R160, R103: a PUMP turn runs
the micro-operation PH names. R105, R191, R192: while an agent has frames of a burst pending, its turn runs the bus
primitive of the first one (shifting a burst frame by frame is the model's choice, log 13). R46, R236: a TIMEBASE turn
advances `now`, runs down the `wait` item under way with it (log 26), and changes nothing else. -/
def Obligations.TurnRunsItsOperation : Prop :=
  (∀ (s : State) (g : Grain) (k : Nat) (ts : List Turn) (i : Instr) (ws rest : List HWord),
    i.wf = true → encode i = .host ws → s.hostIn = ws ++ rest →
    s.sched = .host g k :: ts → s.hostTx = [] → s.hop = none →
    step s = exec i { s with turn := .host g k, sched := ts, hop := some i, hph := .issue, hostIn := rest }) ∧
  (∀ (s : State) (g : Grain) (k : Nat) (ts : List Turn) (i : Instr),
    s.sched = .host g k :: ts → s.hostTx = [] → s.hop = some i →
    step s = exec i { s with turn := .host g k, sched := ts }) ∧
  (∀ (s : State) (g : Grain) (k : Nat) (ts : List Turn),
    s.sched = .host g k :: ts → s.hostTx = [] → s.hop = none → decodeHost s.hostIn = .waiting →
    step s = .next { s with turn := .host g k, sched := ts }) ∧
  (∀ (s : State) (g : Grain) (k : Nat) (ts : List Turn) (i : Instr),
    encode i = .phase s.ph → s.sched = .pump g k :: ts → s.pumpTx = [] →
    step s = exec i { s with turn := .pump g k, sched := ts }) ∧
  (∀ (s : State) (g : Grain) (k : Nat) (ts : List Turn) (i : Instr) (f : Frame) (rest : List Frame),
    encode i = .frame f → s.sched = .pump g k :: ts → s.pumpTx = f :: rest →
    step s = exec i { s with turn := .pump g k, sched := ts, pumpTx := rest }) ∧
  (∀ (s : State) (g : Grain) (k : Nat) (ts : List Turn) (i : Instr) (f : Frame) (rest : List Frame),
    encode i = .frame f → s.sched = .host g k :: ts → s.hostTx = f :: rest →
    step s = exec i { s with turn := .host g k, sched := ts, hostTx := rest }) ∧
  (∀ (s : State) (us : Nat) (ts : List Turn), s.sched = .timebase us :: ts →
    step s = .next { s with turn := .timebase us, sched := ts, now := s.now + us, waitLeft := s.waitLeft - us })

/-! ## Construction -/

/-- R48, R49, R221, R250: construction is refused when ConfigOK fails; else it gives the values of the table of R48 for
both straps, and every plane has its 360 bytes, of any value. -/
def Obligations.ConstructionValues : Prop :=
  (∀ c : Cfg, c.ok = false → State.construct c = none) ∧
  (∀ c : Cfg, c.ok = true → ∃ s, State.construct c = some s ∧
    s.runState = (if c.startMode = .delayed then .waiting else .starting) ∧
    s.copyPending = false ∧ s.pendingCmd = false ∧ s.creq = none ∧
    s.planesOk = true ∧ s.cadj = c.cadjInit ∧ s.cmdqLen = 0#8 ∧ s.cmdq.length = c.cmdqMax ∧
    s.ph = (if c.startMode = .delayed then 0#4 else 1#4) ∧ s.sf = 0 ∧
    s.cs = true ∧ s.res = true ∧ s.dc = false ∧ s.sck = false ∧ s.sdo = false ∧
    s.hop = none ∧ s.busLog = [] ∧ s.cfg = c)

/-- The installed configuration is OK (log 6: its constants and its strap are the model's choice) and the state right after
reset meets the invariant (R48, R221). -/
def Obligations.ResetMeetsInvariant : Prop :=
  State.construct Config.installed = some State.reset ∧ Inv State.reset

/-! ## FILL and PIXEL -/

/-- R121, R120: FILL at once. -/
def Obligations.FillSetsEveryByte : Prop :=
  ∀ (s : State) (sh : BitVec 2), AtIssue s →
    ∃ t, exec (.fill sh) s = .next t ∧
      (∀ i, i < planeBytes →
        t.la.read i = some (if sh.getLsbD 0 then 0xFF#8 else 0x00#8) ∧
        t.lb.read i = some (if sh.getLsbD 1 then 0xFF#8 else 0x00#8)) ∧
      Responded s t .done ∧ SameDerived s t ∧ SameCells s t ∧ SameRegisters s t ∧ SameStamps s t ∧ SamePlace s t ∧
      SameBus s t ∧ SameAround s t

/-- R69, R121: FILL's 720 byte writes, one in a turn and in any order, come to the same state as FILL at once. -/
def Obligations.FillInAnyOrderEqualsAtOnce : Prop :=
  ∀ (s : State) (sh : BitVec 2) (picks : List Nat),
    s.hph = .issue → s.planesOk = true → picks.length = 721 →
    ∃ t, runTurns (.fill sh) (Turn.host .stepwise) picks s = .next t ∧
      EqUpToTurn ((s.fillPlanes sh).respond .done) t

/-- R123, R61, R120: PIXEL in range, at once: one byte of each logical plane, its other bits and every other byte kept. -/
def Obligations.PixelUpdatesOneByteOfEachPlane : Prop :=
  ∀ (s : State) (x y : BitVec 12) (sh : BitVec 2), AtIssue s → s.planesOk = true →
    0 ≤ x.toInt → x.toInt < 72 → 0 ≤ y.toInt → y.toInt < 40 →
    ∃ t, exec (.pixel x y sh) s = .next t ∧
      (∀ idx mask, idx = (y.toInt.toNat / 8) * 72 + x.toInt.toNat → mask = 1#8 <<< (y.toInt.toNat % 8) →
        t.la.read idx = some (if sh.getLsbD 0 then s.la.byteAt idx ||| mask else s.la.byteAt idx &&& ~~~mask) ∧
        t.lb.read idx = some (if sh.getLsbD 1 then s.lb.byteAt idx ||| mask else s.lb.byteAt idx &&& ~~~mask) ∧
        (∀ i, i ≠ idx → t.la.read i = s.la.read i ∧ t.lb.read i = s.lb.read i)) ∧
      Responded s t .done ∧ SameDerived s t ∧ SameCells s t ∧ SameRegisters s t ∧ SameStamps s t ∧ SamePlace s t ∧
      SameBus s t ∧ SameAround s t

/-- R124, R66: PIXEL out of range, at any grain, reads nothing, writes nothing and responds DONE. -/
def Obligations.PixelOutOfRangeIsNoOp : Prop :=
  ∀ (s : State) (x y : BitVec 12) (sh : BitVec 2), s.hph = .issue →
    (x.toInt < 0 ∨ 72 ≤ x.toInt ∨ y.toInt < 0 ∨ 40 ≤ y.toInt) →
    ∃ t, exec (.pixel x y sh) s = .next t ∧ OnlyResponded s t .done

/-- R123, R61: after PIXEL the pixel has the shade, and every other pixel has the shade it had. -/
def Obligations.PixelSetsExactlyItsShade : Prop :=
  ∀ (s : State) (x y : BitVec 12) (sh : BitVec 2), AtIssue s → s.planesOk = true →
    0 ≤ x.toInt → x.toInt < 72 → 0 ≤ y.toInt → y.toInt < 40 →
    ∃ t, exec (.pixel x y sh) s = .next t ∧
      t.shade x.toInt.toNat y.toInt.toNat = sh ∧
      (∀ x' y', x' < 72 → y' < 40 → ¬ (x' = x.toInt.toNat ∧ y' = y.toInt.toNat) → t.shade x' y' = s.shade x' y')

/-- R69, R123: PIXEL's two reads and two writes, one in a turn and in any order, come to the same state as PIXEL at once. -/
def Obligations.PixelInAnyOrderEqualsAtOnce : Prop :=
  ∀ (s : State) (x y : BitVec 12) (sh : BitVec 2) (picks : List Nat),
    s.hph = .issue → s.planesOk = true → onScreen x.toInt y.toInt = true → picks.length = 5 →
    ∃ t, runTurns (.pixel x y sh) (Turn.host .stepwise) picks s = .next t ∧
      EqUpToTurn ((s.plotPixel x.toInt.toNat y.toInt.toNat sh).respond .done) t

/-! ## The compositor and the checkpoint -/

/-- R122: FILL then COMPOSE gives the planes of its table. -/
def Obligations.FillThenComposeIsUniform : Prop :=
  ∀ (s : State) (sh : BitVec 2) (i : Nat), i < planeBytes →
    (s.fillPlanes sh).composeAll.la.read i = some (if sh.getLsbD 0 then 0xFF#8 else 0x00#8) ∧
    (s.fillPlanes sh).composeAll.lb.read i = some (if sh.getLsbD 1 then 0xFF#8 else 0x00#8) ∧
    (s.fillPlanes sh).composeAll.dp0.read i = some (if sh ≠ 0#2 then 0xFF#8 else 0x00#8) ∧
    (s.fillPlanes sh).composeAll.dp1.read i = some (if sh.getLsbD 1 then 0xFF#8 else 0x00#8) ∧
    (s.fillPlanes sh).composeAll.dp2.read i = some (if sh = 3#2 then 0xFF#8 else 0x00#8)

/-- R125: after PIXEL then COMPOSE the derived planes show, at that pixel, 000, 100, 110, 111 for shade 0, 1, 2, 3. -/
def Obligations.PixelThenComposeDecodesToShade : Prop :=
  ∀ (s : State) (x y : Nat) (sh : BitVec 2), s.planesOk = true → x < 72 → y < 40 →
    ((s.plotPixel x y sh).composeAll.dp0.pixel x y = true ↔ 1 ≤ sh.toNat) ∧
    ((s.plotPixel x y sh).composeAll.dp1.pixel x y = true ↔ 2 ≤ sh.toNat) ∧
    ((s.plotPixel x y sh).composeAll.dp2.pixel x y = true ↔ 3 ≤ sh.toNat)

/-- R169 (a), R131: at the checkpoint a set COPYPENDING is served by COMPOSE and cleared, and nothing else is touched. -/
def Obligations.MaintComposesAndClears : Prop :=
  ∀ s : State, AtStart s → s.sf = 2 → s.planesOk = true → s.copyPending = true →
    ∃ t, exec .maint s = .next t ∧
      (∀ i, i < planeBytes →
        t.dp0.read i = some (s.la.byteAt i ||| s.lb.byteAt i) ∧ t.dp1.read i = some (s.lb.byteAt i) ∧
        t.dp2.read i = some (s.la.byteAt i &&& s.lb.byteAt i)) ∧
      t.copyPending = false ∧ t.creq = s.creq ∧ t.pendingCmd = s.pendingCmd ∧ t.runState = s.runState ∧
      PumpAt t 9#4 ∧ t.sf = s.sf ∧
      SameLogical s t ∧ SameRegisters s t ∧ SameStamps s t ∧ SameBus s t ∧ SamePort s t ∧ SameAround s t

/-- R169 (b), R212: with COPYPENDING = 0 a set CREQ is served: all three pairs become CONTRAST_MAP of its level, and CREQ
is cleared. -/
def Obligations.MaintRecomputesContrast : Prop :=
  ∀ (s : State) (lvl : Byte), AtStart s → s.sf = 2 → s.cfg.ok = true → s.copyPending = false → s.creq = some lvl →
    ∃ t c, exec .maint s = .next t ∧ s.cfg.contrastMap[lvl.toNat]? = some c ∧
      t.cadj = c ∧ t.creq = none ∧ t.cmdq = s.cmdq ∧ t.cmdqLen = s.cmdqLen ∧
      t.copyPending = s.copyPending ∧ t.pendingCmd = s.pendingCmd ∧ t.runState = s.runState ∧
      PumpAt t 9#4 ∧ t.sf = s.sf ∧
      SameLogical s t ∧ SameDerived s t ∧ SameStamps s t ∧ SameBus s t ∧ SamePort s t ∧ SameAround s t

/-- R169 (c): at the checkpoint with COPYPENDING = 0 and CREQ none, a set PENDINGCMD is served: the queued bytes go out as
one command burst and the flag is cleared; with none set, only PH advances. R169 (1): in subframes 0 and 1 MAINT looks at no
request: only PH advances, at any grain. The levels of SDO, and of SCK in clock modes 1 to 3, after the burst are the
model's choice (log 14). -/
def Obligations.MaintSendsQueueOrNothing : Prop :=
  (∀ s : State, s.pph = .start → s.sf ≠ 2 → exec .maint s = .next { s with ph := 9#4 }) ∧
  (∀ s : State, AtStart s → s.sf = 2 → s.copyPending = false → s.creq = none → s.pendingCmd = false →
    exec .maint s = .next { s with ph := 9#4 }) ∧
  (∀ s : State, AtStart s → s.sf = 2 → s.copyPending = false → s.creq = none → s.pendingCmd = true →
    ∃ t, exec .maint s = .next t ∧
      t.busLog = s.busLog ++ burstEvents false (s.cmdq.take s.cmdqLen.toNat) .pump ∧
      LinesAfter s t false (s.cmdq.take s.cmdqLen.toNat) ∧ t.res = s.res ∧
      t.hostTx = s.hostTx ∧ t.pumpTx = s.pumpTx ∧
      t.pendingCmd = false ∧ t.copyPending = s.copyPending ∧ t.creq = s.creq ∧ t.runState = s.runState ∧
      PumpAt t 9#4 ∧ t.sf = s.sf ∧
      SameLogical s t ∧ SameDerived s t ∧ SameRegisters s t ∧ SameStamps s t ∧ SamePort s t ∧ SameAround s t)

/-- R226, R169 (1): in any one step MAINT clears at most one of the three requests, and a step that clears one ends MAINT,
so one checkpoint serves at most one at any grain; it sets none, and touches none in subframes 0 and 1 unless it is already
inside an action. -/
def Obligations.AtMostOneRequestServed : Prop :=
  ∀ s t : State, exec .maint s = .next t →
    (t.copyPending ≠ s.copyPending →
      t.creq = s.creq ∧ t.pendingCmd = s.pendingCmd ∧ t.copyPending = false ∧ PumpAt t 9#4) ∧
    (t.creq ≠ s.creq →
      t.copyPending = s.copyPending ∧ t.pendingCmd = s.pendingCmd ∧ t.creq = none ∧ PumpAt t 9#4) ∧
    (t.pendingCmd ≠ s.pendingCmd →
      t.copyPending = s.copyPending ∧ t.creq = s.creq ∧ t.pendingCmd = false ∧ PumpAt t 9#4) ∧
    (s.pph = .start → s.sf ≠ 2 → t.copyPending = s.copyPending ∧ t.creq = s.creq ∧ t.pendingCmd = s.pendingCmd)

/-- R131, R69: with no host write between, COMPOSE's 720 reads in any order come to the same state as COMPOSE in one step. -/
def Obligations.ComposeInAnyOrderEqualsAtOnce : Prop :=
  ∀ (s : State) (picks : List Nat),
    s.pph = .start → s.sf = 2 → s.planesOk = true → s.copyPending = true → picks.length = 722 →
    ∃ t, runTurns .maint (Turn.pump .stepwise) picks s = .next t ∧
      EqUpToTurn (s.composeAll.clearCopy.goto 9#4) t

/-- R135, R131: whatever MAINT does to index i of the derived planes in a step, at any grain and from any point of a
COMPOSE that host writes overlap, leaves them contained there. That this holds after every step, and not only after the
whole COMPOSE, is the model's choice: the three derived bytes of an index are written in one step (log 18). -/
def Obligations.ComposeKeepsContainment : Prop :=
  ∀ (s t : State) (i : Nat), s.planesOk = true → exec .maint s = .next t → i < planeBytes →
    (t.dp0.byteAt i = s.dp0.byteAt i ∧ t.dp1.byteAt i = s.dp1.byteAt i ∧ t.dp2.byteAt i = s.dp2.byteAt i) ∨
    ContainedAt t i

/-- R134: after a COMPOSE a pixel of shade s is on in exactly the first s derived planes, for every pixel. -/
def Obligations.ComposeIsUnaryInThreeSteps : Prop :=
  ∀ (s t : State) (x y : Nat), AtStart s → s.sf = 2 → s.planesOk = true → s.copyPending = true →
    exec .maint s = .next t → x < 72 → y < 40 →
    (t.dp0.pixel x y = true ↔ 1 ≤ (s.shade x y).toNat) ∧ (t.dp1.pixel x y = true ↔ 2 ≤ (s.shade x y).toNat) ∧
    (t.dp2.pixel x y = true ↔ 3 ≤ (s.shade x y).toNat) ∧
    unaryShade (t.dp0.pixel x y) (t.dp1.pixel x y) (t.dp2.pixel x y) = (s.shade x y).toNat

/-! ## Control operations -/

/-- R143: SHOW sets COPYPENDING; not Running, it responds at once and the flag stays; Running, it polls, and responds when
it reads the flag as 0.
That a turn given to it while it waits changes nothing is the model's choice (log 15). -/
def Obligations.ShowRespondsOrWaits : Prop :=
  (∀ s : State, AtIssue s → s.runState ≠ .running →
    exec .showSync s = .next { s with copyPending := true, hop := none, hph := .issue,
                                      responses := s.responses ++ [.done] }) ∧
  (∀ s : State, AtIssue s → s.runState = .running →
    exec .showSync s = .next { s with copyPending := true, hph := .poll }) ∧
  (∀ s : State, s.hph = .poll → s.copyPending = false → ∃ t, exec .showSync s = .next t ∧ OnlyResponded s t .done) ∧
  (∀ s : State, s.hph = .poll → s.copyPending = true → exec .showSync s = .next s)

/-- R145: SHOWA sets COPYPENDING in any run state and responds at once. R146: CONTRAST writes CREQ as one cell, replacing
an unserved request, and responds at once. -/
def Obligations.RequestsWithoutWaiting : Prop :=
  (∀ s : State, s.hph = .issue →
    exec .showAsync s = .next { s with copyPending := true, hop := none, hph := .issue,
                                       responses := s.responses ++ [.done] }) ∧
  (∀ (s : State) (lvl : Byte), s.hph = .issue →
    exec (.contrast lvl) s = .next { s with creq := some lvl, hop := none, hph := .issue,
                                            responses := s.responses ++ [.done] })

/-- R147: CONTRASTS sets CREQ; not Running, it responds at once; Running, it polls, and responds when it reads none.
That a turn given to it while it waits changes nothing is the model's choice (log 15). -/
def Obligations.ContrastSyncRespondsOrWaits : Prop :=
  (∀ (s : State) (lvl : Byte), AtIssue s → s.runState ≠ .running →
    exec (.contrastSync lvl) s = .next { s with creq := some lvl, hop := none, hph := .issue,
                                                responses := s.responses ++ [.done] }) ∧
  (∀ (s : State) (lvl : Byte), AtIssue s → s.runState = .running →
    exec (.contrastSync lvl) s = .next { s with creq := some lvl, hph := .poll }) ∧
  (∀ (s : State) (lvl : Byte), s.hph = .poll → s.creq = none →
    ∃ t, exec (.contrastSync lvl) s = .next t ∧ OnlyResponded s t .done) ∧
  (∀ (s : State) (lvl l : Byte), s.hph = .poll → s.creq = some l → exec (.contrastSync lvl) s = .next s)

/-- R140: taken step by step with no other agent's step between, SHOW (2 steps), CONTRASTS (2), RDSTAT (4), a COMMAND that
is queued (3) and TEARDOWN in Running (2) come to the state the same operation at once comes to. -/
def Obligations.ControlStepByStepEqualsAtOnce : Prop :=
  ∀ (s : State) (i : Instr) (picks : List Nat) (k : Nat), s.hph = .issue →
    ((i = .showSync ∧ picks.length = 2) ∨ ((∃ lvl, i = .contrastSync lvl) ∧ picks.length = 2) ∨
      (i = .rdstat ∧ picks.length = 4) ∨
      ((∃ bytes, i = .command bytes ∧ 0 < bytes.length ∧ bytes.length ≤ s.cfg.cmdqMax) ∧ s.pendingCmd = false ∧
        picks.length = 3) ∨
      (i = .teardown ∧ s.runState = .running ∧ picks.length = 2)) →
    ∃ t u, runTurns i (Turn.host .stepwise) picks s = .next t ∧
      exec i { s with turn := .host .atOnce k } = .next u ∧ EqUpToTurn u t

/-- R178, R191: taken one step in a turn, frames of bursts among them, with no other agent's turn between, PARK, TXPLANE,
CADJ1, RESUME, CADJ2, TXFINAL and MAINT's actions (b), (c) and none come to the state of the same micro-operation at once
(COMPOSE, action (a), is ComposeInAnyOrderEqualsAtOnce). The step-by-step grain is the model's choice (log 2, log 13). -/
def Obligations.PumpStepByStepEqualsAtOnce : Prop :=
  ∀ (s : State) (k : Nat), s.pph = .start → s.pumpTx = [] →
    (s.ph = 2#4 →
      TurnsComeTo s (List.replicate (s.cfg.parkSeq.length + 2) (.pump .stepwise k)) .park (.pump .atOnce k)) ∧
    (s.ph = 4#4 → s.planesOk = true →
      TurnsComeTo s (List.replicate (s.cfg.txplanePrefix.length + 362) (.pump .stepwise k)) .txplane (.pump .atOnce k)) ∧
    (s.ph = 5#4 → TurnsComeTo s (List.replicate 4 (.pump .stepwise k)) .cadj1 (.pump .atOnce k)) ∧
    (s.ph = 6#4 →
      TurnsComeTo s (List.replicate (s.cfg.resumeSeq.length + 2) (.pump .stepwise k)) .resume (.pump .atOnce k)) ∧
    (s.ph = 7#4 → TurnsComeTo s (List.replicate 4 (.pump .stepwise k)) .cadj2 (.pump .atOnce k)) ∧
    (s.ph = 12#4 → s.planesOk = true →
      TurnsComeTo s (List.replicate (s.cfg.txplanePrefix.length + 362) (.pump .stepwise k)) .txfinal (.pump .atOnce k)) ∧
    (s.ph = 8#4 → s.sf = 2 → s.copyPending = false →
      (s.creq.isSome = true → s.cfg.ok = true →
        TurnsComeTo s (List.replicate 4 (.pump .stepwise k)) .maint (.pump .atOnce k)) ∧
      (s.creq = none → s.pendingCmd = true →
        TurnsComeTo s (List.replicate (s.queuedBytes.length + 4) (.pump .stepwise k)) .maint (.pump .atOnce k)) ∧
      (s.creq = none → s.pendingCmd = false →
        TurnsComeTo s (List.replicate 3 (.pump .stepwise k)) .maint (.pump .atOnce k)))

/-- R141, R162, R194, R196: taken one step in a turn, START's and BRINGUP's bring-up come to the state of the same operation
taken at once, which goes on to each `wait` in one turn; in both, TIMEBASE turns of exactly the waits stand behind them and
no other turn between. TEARDOWN's restore taken frame by frame comes to the state of the restore at once. The grains are the
model's choice (log 2, log 3, log 13, log 23). -/
def Obligations.BringupAndRestoreStepByStepEqualAtOnce : Prop :=
  (∀ (s : State) (k k' : Nat), s.hop = some .start → s.hph = .issue → s.hostTx = [] → s.waitLeft = 0 →
    s.cfg.startMode = .delayed → s.runState = .waiting →
    TurnsAgree s (.host .stepwise k :: bringTurns (.host .stepwise k) s.cfg.bringupSeq)
      (onceTurns (.host .atOnce k') s.cfg.bringupSeq)) ∧
  (∀ (s : State) (k k' : Nat), s.ph = 1#4 → s.pph = .start → s.pumpTx = [] → s.waitLeft = 0 →
    TurnsAgree s (.pump .stepwise k :: bringTurns (.pump .stepwise k) s.cfg.bringupSeq)
      (onceTurns (.pump .atOnce k') s.cfg.bringupSeq)) ∧
  (∀ (s : State) (k : Nat), s.hop = some .teardown → s.hph = .restore → s.hostTx = [] →
    TurnsComeTo s (List.replicate (s.cfg.restoreSeq.length + 2) (.host .stepwise k)) .teardown (.host .atOnce k))

/-- R141, R194: START in delayed mode and Waiting. In two clauses. In one at-once turn, at its beginning or when a `wait` is
over, the items up to the next `wait` go to the bus as HOST's and no time passes: with no `wait` left RUNSTATE is then
Running and the response DONE, else that `wait` is under way and RUNSTATE is as before. Over its turns with the waits
between, the whole sequence goes to the bus, `now` advances by the waits, and then RUNSTATE is Running and the response DONE.
How far one turn goes is the model's choice (log 2, log 3), and so are the levels SDO, and SCK in clock modes 1 to 3, are
left at (log 14). -/
def Obligations.StartBringsUpAndReleases : Prop :=
  (∀ (s : State) (items : List BringItem), turnGrain s.turn = .atOnce →
    ((s.hph = .issue ∧ s.cfg.startMode = .delayed ∧ s.runState = .waiting ∧ items = s.cfg.bringupSeq) ∨
      (s.hph = .bring items ∧ s.waitLeft = 0)) →
    ∃ t, exec .start s = .next t ∧ Brought .host (bringHead items) s t ∧
      (bringWaitAt items = none → t.runState = .running ∧ Responded s t .done ∧ t.waitLeft = s.waitLeft) ∧
      (∀ us rest, bringWaitAt items = some (us, rest) →
        t.runState = s.runState ∧ t.hop = s.hop ∧ t.hph = .bring rest ∧ t.responses = s.responses ∧ t.waitLeft = us) ∧
      BringFrame s t ∧ SamePlace s t ∧ t.now = s.now ∧ t.turn = s.turn ∧ t.sched = s.sched) ∧
  (∀ (s : State) (k : Nat) (ts : List Turn), s.hop = some .start → s.hph = .issue → s.hostTx = [] →
    s.cfg.startMode = .delayed → s.runState = .waiting →
    s.sched = onceTurns (.host .atOnce k) s.cfg.bringupSeq ++ ts →
    ∃ t, Host.Core.run core (onceTurns (.host .atOnce k) s.cfg.bringupSeq).length s = .next t ∧
      Brought .host s.cfg.bringupSeq s t ∧ t.runState = .running ∧ Responded s t .done ∧
      t.now = s.now + bringWaits s.cfg.bringupSeq ∧ (s.waitLeft = 0 → t.waitLeft = 0) ∧
      BringFrame s t ∧ SamePlace s t ∧ t.sched = ts)

/-- R142: START is a no-op in immediate mode and when RUNSTATE is not Waiting, at any grain. -/
def Obligations.StartIsNoOpElsewhere : Prop :=
  ∀ s : State, s.hph = .issue → (s.cfg.startMode = .immediate ∨ s.runState ≠ .waiting) →
    ∃ t, exec .start s = .next t ∧ OnlyResponded s t .done

/-- TEARDOWN by the run state it reads. R148, R196: in Running it writes Stopping and polls; it goes on only when it reads
Stopped; then it sends RESTORE_SEQ as HOST and responds DONE. R149: in Stopped it is a no-op, in Waiting it is refused
E_STATE, in Starting it waits for Running and then goes on as in Running; reading Stopping, which no sequential HOST can, it
stops by name (log 16: the model's stop). That a turn given to it while it waits changes nothing is the model's choice
(log 15), and so are the levels SDO, and SCK in clock modes 1 to 3, are left at (log 14). -/
def Obligations.TeardownByRunState : Prop :=
  (∀ s : State, AtIssue s → s.runState = .running →
    exec .teardown s = .next { s with runState := .stopping, hph := .poll }) ∧
  (∀ s : State, s.hph = .poll → s.runState ≠ .stopped → exec .teardown s = .next s) ∧
  (∀ s : State, s.hph = .poll → s.runState = .stopped → exec .teardown s = .next { s with hph := .restore }) ∧
  (∀ s : State, s.hph = .restore → turnGrain s.turn = .atOnce →
    ∃ t, exec .teardown s = .next t ∧
      t.busLog = s.busLog ++ burstEvents false s.cfg.restoreSeq .host ∧ LinesAfter s t false s.cfg.restoreSeq ∧
      t.res = s.res ∧ t.hostTx = s.hostTx ∧ t.pumpTx = s.pumpTx ∧
      Responded s t .done ∧ SameLogical s t ∧ SameDerived s t ∧ SameCells s t ∧ SameRegisters s t ∧
      SameStamps s t ∧ SamePlace s t ∧ SameAround s t) ∧
  (∀ s : State, s.hph = .issue → s.runState = .stopped →
    ∃ t, exec .teardown s = .next t ∧ OnlyResponded s t .done) ∧
  (∀ s : State, s.hph = .issue → s.runState = .waiting →
    ∃ t, exec .teardown s = .next t ∧ OnlyResponded s t (.err .state)) ∧
  (∀ s : State, s.hph = .issue → s.runState = .starting → exec .teardown s = .next { s with hph := .awaitRunning }) ∧
  (∀ s : State, s.hph = .awaitRunning → s.runState ≠ .running → exec .teardown s = .next s) ∧
  (∀ s : State, s.hph = .awaitRunning → s.runState = .running → exec .teardown s = .next { s with hph := .stop }) ∧
  (∀ s : State, s.hph = .stop → exec .teardown s = .next { s with runState := .stopping, hph := .poll }) ∧
  (∀ s : State, s.hph = .issue → s.runState = .stopping → exec .teardown s = .fault .stoppingObserved)

/-- R150, R29: COMMAND writes its bytes to the head of CMDQ and their number to CMDQ_LEN, sets PENDINGCMD and responds. -/
def Obligations.CommandFillsQueue : Prop :=
  ∀ (s : State) (bytes : List Byte), AtIssue s → s.cfg.ok = true → s.cmdq.length = s.cfg.cmdqMax →
    0 < bytes.length → bytes.length ≤ s.cfg.cmdqMax → s.pendingCmd = false →
    ∃ t, exec (.command bytes) s = .next t ∧
      (∀ k, k < bytes.length → t.cmdq[k]? = bytes[k]?) ∧ (∀ k, bytes.length ≤ k → t.cmdq[k]? = s.cmdq[k]?) ∧
      t.cmdq.length = s.cfg.cmdqMax ∧ t.cmdqLen.toNat = bytes.length ∧ t.pendingCmd = true ∧
      Responded s t .done ∧ t.runState = s.runState ∧ t.copyPending = s.copyPending ∧ t.creq = s.creq ∧
      t.cadj = s.cadj ∧ SameLogical s t ∧ SameDerived s t ∧ SameStamps s t ∧ SamePlace s t ∧ SameBus s t ∧
      SameAround s t

/-- R150, R222, R224: COMMAND with no byte or more than CMDQ_MAX is refused E_LEN, whatever PENDINGCMD is; with a legal
length and PENDINGCMD = 1 it is refused E_BUSY; nothing else changes, at any grain. -/
def Obligations.CommandRefusals : Prop :=
  (∀ (s : State) (bytes : List Byte), s.hph = .issue → (bytes.length = 0 ∨ s.cfg.cmdqMax < bytes.length) →
    ∃ t, exec (.command bytes) s = .next t ∧ OnlyResponded s t (.err .len)) ∧
  (∀ (s : State) (bytes : List Byte), s.hph = .issue → 0 < bytes.length → bytes.length ≤ s.cfg.cmdqMax →
    s.pendingCmd = true → ∃ t, exec (.command bytes) s = .next t ∧ OnlyResponded s t (.err .busy))

/-- R151, R97: RDSTAT responds the status word, field by field, and changes nothing. -/
def Obligations.RdstatReportsTheCells : Prop :=
  ∀ s : State, AtIssue s →
    ∃ t w, exec .rdstat s = .next t ∧ OnlyResponded s t (.status w) ∧
      w.extractLsb' 0 3 = s.runState.code ∧ w.getLsbD 3 = s.copyPending ∧ w.getLsbD 4 = s.pendingCmd ∧
      w.getLsbD 5 = s.creq.isSome ∧ w.extractLsb' 6 2 = 0#2 ∧ w.extractLsb' 8 8 = s.creq.getD 0#8 ∧
      w.extractLsb' 16 16 = 0#16

/-! ## Pump micro-operations -/

/-- R161: IDLE polls while RUNSTATE is Waiting and is released by any other value. -/
def Obligations.IdleWaitsForRelease : Prop :=
  (∀ s : State, s.runState = .waiting → exec .idle s = .next { s with ph := 0#4, pph := .start }) ∧
  (∀ s : State, s.runState ≠ .waiting → exec .idle s = .next { s with sf := 0, ph := 2#4, pph := .start })

/-- R162, R194: BRINGUP. In two clauses. In one at-once turn, at its beginning or when a `wait` is over, the items up to the
next `wait` go to the bus as PUMP's and no time passes: with no `wait` left RUNSTATE is then Running and the loop begins,
else that `wait` is under way and RUNSTATE, PH and SF are as before. Over its turns with the waits between, the whole
sequence goes to the bus, `now` advances by the waits, and then RUNSTATE is Running and the loop begins. How far one turn
goes is the model's choice (log 2, log 3), and so are the levels SDO, and SCK in clock modes 1 to 3, are left at (log 14). -/
def Obligations.BringupSendsAndRuns : Prop :=
  (∀ (s : State) (items : List BringItem), turnGrain s.turn = .atOnce →
    ((s.pph = .start ∧ items = s.cfg.bringupSeq) ∨ (s.pph = .bring items ∧ s.waitLeft = 0)) →
    ∃ t, exec .bringup s = .next t ∧ Brought .pump (bringHead items) s t ∧
      (bringWaitAt items = none → t.runState = .running ∧ t.sf = 0 ∧ PumpAt t 2#4 ∧ t.waitLeft = s.waitLeft) ∧
      (∀ us rest, bringWaitAt items = some (us, rest) →
        t.runState = s.runState ∧ t.sf = s.sf ∧ t.ph = s.ph ∧ t.pph = .bring rest ∧ t.waitLeft = us) ∧
      BringFrame s t ∧ SamePort s t ∧ t.now = s.now ∧ t.turn = s.turn ∧ t.sched = s.sched) ∧
  (∀ (s : State) (k : Nat) (ts : List Turn), s.ph = 1#4 → s.pph = .start → s.pumpTx = [] →
    s.sched = onceTurns (.pump .atOnce k) s.cfg.bringupSeq ++ ts →
    ∃ t, Host.Core.run core (onceTurns (.pump .atOnce k) s.cfg.bringupSeq).length s = .next t ∧
      Brought .pump s.cfg.bringupSeq s t ∧ t.runState = .running ∧ t.sf = 0 ∧ PumpAt t 2#4 ∧
      t.now = s.now + bringWaits s.cfg.bringupSeq ∧ (s.waitLeft = 0 → t.waitLeft = 0) ∧
      BringFrame s t ∧ SamePort s t ∧ t.sched = ts)

/-- R163: PARK takes TS1, sends PARK_SEQ and goes to WAITPRE. The levels SDO, and SCK in clock modes 1 to 3, are left at are
the model's choice (log 14). -/
def Obligations.ParkStampsAndSends : Prop :=
  ∀ s : State, AtStart s →
    ∃ t, exec .park s = .next t ∧
      t.ts1 = s.now ∧ t.ts3 = s.ts3 ∧ t.busLog = s.busLog ++ burstEvents false s.cfg.parkSeq .pump ∧
      LinesAfter s t false s.cfg.parkSeq ∧ PumpAt t 3#4 ∧ t.sf = s.sf ∧ PumpFrame s t

/-- R164, R170: WAITPRE and WAITSUB go on exactly when `now` has reached the deadline. R194: a bring-up `wait t`, in START
or in BRINGUP, has `now` advance by t: while time is left the agent changes nothing, and none is left exactly when TIMEBASE
has brought `now` to the `now` of its beginning plus t; nothing else shortens a `wait` under way. That a turn given to the agent before the deadline changes nothing is
the model's choice (log 15): the rules give no step there. That the time left of a `wait` is held in `waitLeft` is the
model's too (log 26). -/
def Obligations.WaitsHoldUntilTheDeadline : Prop :=
  (∀ s : State, s.now < s.ts1 + s.cfg.tPreUs → exec .waitpre s = .next s) ∧
  (∀ s : State, s.ts1 + s.cfg.tPreUs ≤ s.now → exec .waitpre s = .next { s with ph := 4#4, pph := .start }) ∧
  (∀ s : State, s.now < s.ts3 + s.cfg.tSubUs → exec .waitsub s = .next s) ∧
  (∀ s : State, s.ts3 + s.cfg.tSubUs ≤ s.now → exec .waitsub s = .next { s with ph := 10#4, pph := .start }) ∧
  (∀ (s : State) (us : Nat) (rest : List BringItem), s.hph = .bring (.wait us :: rest) → s.waitLeft = 0 →
    exec .start s = .next { s with hph := .bring rest, waitLeft := us }) ∧
  (∀ (s : State) (items : List BringItem), s.hph = .bring items → s.waitLeft ≠ 0 → exec .start s = .next s) ∧
  (∀ (s : State) (us : Nat) (rest : List BringItem), s.pph = .bring (.wait us :: rest) → s.waitLeft = 0 →
    exec .bringup s = .next { s with pph := .bring rest, waitLeft := us }) ∧
  (∀ (s : State) (items : List BringItem), s.pph = .bring items → s.waitLeft ≠ 0 → exec .bringup s = .next s) ∧
  (∀ (s : State) (ds : List Nat) (ts : List Turn), s.sched = ds.map .timebase ++ ts →
    ∃ t, Host.Core.run core ds.length s = .next t ∧ t.now = s.now + ds.sum ∧
      (t.waitLeft = 0 ↔ s.now + s.waitLeft ≤ t.now)) ∧
  (∀ s t : State, Inv s → step s = .next t → t.waitLeft ≠ s.waitLeft →
    (∃ us, t.turn = .timebase us ∧ t.waitLeft = s.waitLeft - us) ∨ (s.waitLeft = 0 ∧ BringsUp s t))

/-- R165, R65: TXPLANE takes TS3, sends the prefix bytes and then the 360 bytes of DP[SF] in ascending order. The levels
SDO, and SCK in clock modes 1 to 3, are left at are the model's choice (log 14). -/
def Obligations.TxplaneSendsThePlane : Prop :=
  ∀ s : State, AtStart s → s.planesOk = true →
    ∃ t, exec .txplane s = .next t ∧
      t.ts3 = s.now ∧ t.ts1 = s.ts1 ∧
      t.busLog = s.busLog ++ burstEvents false s.cfg.txplanePrefix .pump
        ++ (List.range 360).map (fun i => .byte true ((s.derived s.sf).byteAt i) .pump) ∧
      t.dc = true ∧ t.cs = (!s.cfg.csActive) ∧ t.sck = sckRest s.cfg ∧
      t.sdo = lastBitSent s.cfg ((s.derived s.sf).byteAt 359) ∧
      PumpAt t 5#4 ∧ t.sf = s.sf ∧ PumpFrame s t

/-- R166, R167, R168: CADJ1 and CADJ2 send the pair of the subframe, RESUME sends RESUME_SEQ. The levels SDO, and SCK in
clock modes 1 to 3, are left at are the model's choice (log 14). -/
def Obligations.WeightsAndResumeSend : Prop :=
  ∀ s : State, AtStart s →
    (∃ t, exec .cadj1 s = .next t ∧
      t.busLog = s.busLog ++ [.byte false (s.cadj.get s.sf).b0 .pump, .byte false (s.cadj.get s.sf).b1 .pump] ∧
      LinesAfter s t false [(s.cadj.get s.sf).b0, (s.cadj.get s.sf).b1] ∧
      PumpAt t 6#4 ∧ t.sf = s.sf ∧ SameStamps s t ∧ PumpFrame s t) ∧
    (∃ t, exec .resume s = .next t ∧ t.busLog = s.busLog ++ burstEvents false s.cfg.resumeSeq .pump ∧
      LinesAfter s t false s.cfg.resumeSeq ∧ PumpAt t 7#4 ∧ t.sf = s.sf ∧ SameStamps s t ∧ PumpFrame s t) ∧
    (∃ t, exec .cadj2 s = .next t ∧
      t.busLog = s.busLog ++ [.byte false (s.cadj.get s.sf).b0 .pump, .byte false (s.cadj.get s.sf).b1 .pump] ∧
      LinesAfter s t false [(s.cadj.get s.sf).b0, (s.cadj.get s.sf).b1] ∧
      PumpAt t 8#4 ∧ t.sf = s.sf ∧ SameStamps s t ∧ PumpFrame s t)

/-- R171: NEXT advances SF; after subframe 2 it returns to subframe 0, and only there looks for a stop request. -/
def Obligations.NextAdvancesOrStops : Prop :=
  (∀ s : State, s.sf.val < 2 →
    ∃ t, exec .next s = .next t ∧ t.sf.val = s.sf.val + 1 ∧ t = { s with sf := t.sf, ph := 2#4, pph := .start }) ∧
  (∀ s : State, s.sf = 2 → s.runState = .stopping →
    exec .next s = .next { s with sf := 0, ph := 11#4, pph := .start }) ∧
  (∀ s : State, s.sf = 2 → s.runState ≠ .stopping →
    exec .next s = .next { s with sf := 0, ph := 2#4, pph := .start })

/-- R172, R173, R174, R175: BLANK zeroes DP[0] only; TXFINAL sends the prefix and DP[0]; SETSTOP writes Stopped; HALT does
nothing. That a turn can be given to a halted pump and changes nothing is the model's choice (log 15), and so are the levels
SDO, and SCK in clock modes 1 to 3, are left at (log 14). -/
def Obligations.StopSequenceOperations : Prop :=
  (∀ s : State, ∃ t, exec .blank s = .next t ∧ (∀ i, i < planeBytes → t.dp0.read i = some 0x00#8) ∧
    t.dp1 = s.dp1 ∧ t.dp2 = s.dp2 ∧ PumpAt t 12#4 ∧ t.sf = s.sf ∧ SameLogical s t ∧ SameCells s t ∧
    SameRegisters s t ∧ SameStamps s t ∧ SameBus s t ∧ SamePort s t ∧ SameAround s t) ∧
  (∀ s : State, AtStart s → s.planesOk = true →
    ∃ t, exec .txfinal s = .next t ∧
      t.busLog = s.busLog ++ burstEvents false s.cfg.txplanePrefix .pump
        ++ (List.range 360).map (fun i => .byte true (s.dp0.byteAt i) .pump) ∧
      t.dc = true ∧ t.cs = (!s.cfg.csActive) ∧ t.sck = sckRest s.cfg ∧
      t.sdo = lastBitSent s.cfg (s.dp0.byteAt 359) ∧
      PumpAt t 13#4 ∧ t.sf = s.sf ∧ SameStamps s t ∧ PumpFrame s t) ∧
  (∀ s : State, exec .setstop s = .next { s with runState := .stopped, ph := 14#4, pph := .start }) ∧
  (∀ s : State, exec .halt s = .next s)

/-! ## The bus -/

/-- R191, R192, R193, R45: TXC and TXD send one byte and log it with its sender; CS stays active while the next frame
belongs to the same burst, and is released at its end and where DC changes; the bits leave in the order configured. The
model's choices: the sender is the agent of the turn, a TIMEBASE turn counting as PUMP, and a change of DC ends a burst
(log 13); SDO keeps the last bit, and SCK's rest level in clock modes 1 to 3 (log 14). -/
def Obligations.BusPrimitivesSendOneByte : Prop :=
  (∀ (s : State) (b : Byte),
    (∃ t, exec (.txc b) s = .next t ∧ t.busLog = s.busLog ++ [.byte false b (turnSender s.turn)] ∧ t.dc = false ∧
      t.sdo = lastBitSent s.cfg b ∧ t.sck = sckRest s.cfg ∧
      (s.pendingTx (turnSender s.turn) = [] → t.cs = (!s.cfg.csActive)) ∧
      (∀ f rest, s.pendingTx (turnSender s.turn) = f :: rest →
        t.cs = if f.getLsbD 8 then !s.cfg.csActive else s.cfg.csActive) ∧
      SamePlace s t ∧ SameStamps s t ∧ PumpFrame s t) ∧
    (∃ t, exec (.txd b) s = .next t ∧ t.busLog = s.busLog ++ [.byte true b (turnSender s.turn)] ∧ t.dc = true ∧
      t.sdo = lastBitSent s.cfg b ∧ t.sck = sckRest s.cfg ∧
      (s.pendingTx (turnSender s.turn) = [] → t.cs = (!s.cfg.csActive)) ∧
      (∀ f rest, s.pendingTx (turnSender s.turn) = f :: rest →
        t.cs = if f.getLsbD 8 then s.cfg.csActive else !s.cfg.csActive) ∧
      SamePlace s t ∧ SameStamps s t ∧ PumpFrame s t)) ∧
  (∀ (b : Byte) (i : Nat), i < 8 →
    (serialBits .msbFirst b)[i]? = some (b.getLsbD (7 - i)) ∧ (serialBits .lsbFirst b)[i]? = some (b.getLsbD i))

/-- R191, R192: a command burst and a display-memory burst behind it, either of them possibly empty, shifted out frame by
frame in turns of their agent, HOST or PUMP, come to the state of the bursts sent whole. Frame by frame is the model's
choice (log 13). -/
def Obligations.BurstFrameByFrameEqualsWhole : Prop :=
  ∀ (s : State) (cmds datas : List Byte) (g : Grain) (k : Nat) (ts : List Turn),
    (s.pumpTx = framesOf false cmds ++ framesOf true datas →
      s.sched = List.replicate (cmds.length + datas.length) (.pump g k) ++ ts →
      ∃ t, Host.Core.run core (cmds.length + datas.length) s = .next t ∧
        EqUpToTurn (({ s with pumpTx := [], sched := ts }.sendBurst false cmds .pump).sendBurst true datas .pump) t) ∧
    (s.hostTx = framesOf false cmds ++ framesOf true datas →
      s.sched = List.replicate (cmds.length + datas.length) (.host g k) ++ ts →
      ∃ t, Host.Core.run core (cmds.length + datas.length) s = .next t ∧
        EqUpToTurn (({ s with hostTx := [], sched := ts }.sendBurst false cmds .host).sendBurst true datas .host) t)

/-- R177, R198, R271: one subframe with no deadline missed, from PARK, sends its bytes in the order of R177, ends at the
next PARK (or at BLANK, after subframe 2 with a stop requested) and takes T_PRE_US + T_SUB_US. -/
def Obligations.SubframeSendsItsBytes : Prop :=
  ∀ (s : State) (ts : List Turn), s.cfg.ok = true → s.planesOk = true → s.ph = 2#4 → s.pph = .start → s.pumpTx = [] →
    s.sched = subframeTurns s.cfg ++ ts →
    ∃ t, Host.Core.run core 11 s = .next t ∧
      t.busLog = s.busLog ++ subframeEvents s s.sf ++ burstEvents false (maintBytes s) .pump ∧
      t.now = s.now + s.cfg.tPreUs + s.cfg.tSubUs ∧ t.sched = ts ∧ t.sf = s.sf + 1 ∧
      PumpAt t (if s.sf = 2 ∧ s.runState = .stopping then 11#4 else 2#4) ∧ SameLogical s t ∧ SamePort s t

/-- R177, R77, R152: one outer cycle with no deadline missed and COPYPENDING = 1 sends DP[0], DP[1], DP[2] as they were, each
with its own pair, and ends with COPYPENDING = 0 and the derived planes matching the logical ones. -/
def Obligations.OuterCycleServesACopyRequest : Prop :=
  ∀ (s : State) (ts : List Turn), s.cfg.ok = true → s.planesOk = true → s.ph = 2#4 → s.pph = .start → s.sf = 0 →
    s.pumpTx = [] → s.copyPending = true → s.sched = cycleTurns s.cfg ++ ts →
    ∃ t, Host.Core.run core 33 s = .next t ∧
      t.busLog = s.busLog ++ subframeEvents s 0 ++ subframeEvents s 1 ++ subframeEvents s 2 ∧
      t.copyPending = false ∧ t.creq = s.creq ∧ t.pendingCmd = s.pendingCmd ∧ t.cadj = s.cadj ∧
      DerivedMatch t ∧ SameLogical s t ∧ t.now = s.now + 3 * (s.cfg.tPreUs + s.cfg.tSubUs)

/-! ## Hazards the machine must exhibit -/

/-- R262: PUMP has read CREQ = some(l1); a CONTRASTS(l2) issued before the clear is wiped by it: CADJ is CONTRAST_MAP(l1),
and the CONTRASTS responds although its level was not applied. -/
def Obligations.ContrastRequestCanBeLost : Prop :=
  ∀ (s : State) (l1 l2 : Byte) (c : Cadj) (ts : List Turn),
    s.ph = 8#4 → s.pph = .recompute l1 → s.creq = some l1 → contrastAt s.cfg l1 = some c → s.pumpTx = [] →
    s.runState = .running → s.hop = none → s.hostTx = [] → s.hostIn = [wordHL 6#4 l2] →
    s.sched = .host .atOnce 0 :: .pump .stepwise 0 :: .pump .stepwise 0 :: .host .atOnce 0 :: ts →
    ∃ t, Host.Core.run core 4 s = .next t ∧ t.cadj = c ∧ t.creq = none ∧ t.hop = none ∧
      t.responses = s.responses ++ [.done]

/-- R261, R264: a COMPOSE has passed index 0 when the host sets pixel (0,0) and issues SHOW over an unserved request: SHOW
responds, no request is pending, the pixel has shade 3 and no derived plane shows it. -/
def Obligations.ShowCanMissAPixel : Prop :=
  ∀ (s : State) (ts : List Turn), s.planesOk = true →
    s.ph = 8#4 → s.pph = .compose [{ idx := 359, a := none, b := none }] → s.copyPending = true → s.pumpTx = [] →
    s.dp0.byteAt 0 = 0#8 → s.dp1.byteAt 0 = 0#8 → s.dp2.byteAt 0 = 0#8 →
    s.runState = .running → s.hop = none → s.hostTx = [] → s.hostIn = [0x20000003#32, 0x30000000#32] →
    s.sched = .host .atOnce 0 :: .host .atOnce 0 :: .pump .stepwise 0 :: .pump .stepwise 0 :: .pump .stepwise 0
      :: .host .atOnce 0 :: ts →
    ∃ t, Host.Core.run core 6 s = .next t ∧ t.responses = s.responses ++ [.done, .done] ∧ t.copyPending = false ∧
      t.hop = none ∧ t.shade 0 0 = 3#2 ∧ t.dp0.pixel 0 0 = false ∧ t.dp1.pixel 0 0 = false ∧ t.dp2.pixel 0 0 = false

/-! ## The whole machine -/

/-- R75, R144, R143: the guarantee of SHOW, at every grain. Issued with COPYPENDING = 0 (and in Running, where the whole
issue is one turn), SHOW comes under `ShowGuard`; every step of any agent keeps the guard and the logical planes or is
SHOW's own response, and then either RUNSTATE was read as not Running, or COPYPENDING is 0 and the derived planes match the
logical planes, which are as they were. -/
def Obligations.ShowGuaranteeHoldsUntilResponse : Prop :=
  (∀ s : State, Inv s → s.hop = some .showSync → s.hph = .issue → s.copyPending = false →
    (turnGrain s.turn = .atOnce → s.runState = .running) →
    ∃ t, exec .showSync s = .next t ∧ ShowGuard t ∧ SameLogical s t) ∧
  (∀ s t : State, ShowGuard s → step s = .next t → SameLogical s t ∧
    (ShowGuard t ∨ (t.hop = none ∧ t.responses = s.responses ++ [.done] ∧
      ((s.hph = .readRun ∧ s.runState ≠ .running) ∨ (t.copyPending = false ∧ DerivedMatch t)))))

/-- R147: the guarantee of CONTRASTS, at every grain. When it responds, either RUNSTATE was read as not Running, or CADJ is
CONTRAST_MAP of its level, provided CREQ was none when it began. -/
def Obligations.ContrastGuaranteeHoldsUntilResponse : Prop :=
  (∀ (s : State) (lvl : Byte), Inv s → s.hop = some (.contrastSync lvl) → s.hph = .issue → s.creq = none →
    (turnGrain s.turn = .atOnce → s.runState = .running) →
    ∃ t, exec (.contrastSync lvl) s = .next t ∧ ContrastGuard lvl t) ∧
  (∀ (s t : State) (lvl : Byte), ContrastGuard lvl s → step s = .next t →
    ContrastGuard lvl t ∨ (t.hop = none ∧ t.responses = s.responses ++ [.done] ∧
      ((s.hph = .readRun ∧ s.runState ≠ .running) ∨ (t.creq = none ∧ contrastAt t.cfg lvl = some t.cadj))))

/-- Every step keeps the invariant: canonical planes, legal PH and SF, run state and phase in agreement (R104, R176, R231),
HPH of the operation in flight (R38), flags held while they are served. -/
def Obligations.EveryStepKeepsInvariant : Prop :=
  ∀ s t : State, Inv s → step s = .next t → Inv t

/-- R220: "Steady-state operations are total": from a state of the invariant every step answers a next state. -/
def Obligations.NoStepFromInvariantStops : Prop :=
  ∀ s : State, Inv s → ∃ t, step s = .next t

/-- R23, R27: RUNSTATE changes only by the four transitions, each by its single writer. -/
def Obligations.RunStateTransitionsHaveOneWriter : Prop :=
  ∀ s t : State, Inv s → step s = .next t → t.runState ≠ s.runState →
    (s.runState = .waiting ∧ t.runState = .running ∧ ∃ g k, t.turn = .host g k) ∨
    (s.runState = .starting ∧ t.runState = .running ∧ s.ph = 1#4 ∧ ∃ g k, t.turn = .pump g k) ∨
    (s.runState = .running ∧ t.runState = .stopping ∧ ∃ g k, t.turn = .host g k) ∨
    (s.runState = .stopping ∧ t.runState = .stopped ∧ s.ph = 13#4 ∧ ∃ g k, t.turn = .pump g k)

/-- R160, R104, R112: PH and SF change only in a PUMP turn and only as the listing of the fixed micro-program has it, the
waits only past their deadlines and the stop branch only when Stopping is read. -/
def Obligations.PhaseFollowsTheMicroProgram : Prop :=
  ∀ s t : State, Inv s → step s = .next t →
    (t.ph = s.ph ∧ t.sf = s.sf) ∨ (FollowsProgram s t ∧ ∃ g k, t.turn = .pump g k)

/-- R50, R21, R22, R24 to R30, R77, R80: what a HOST step, a PUMP step and a TIMEBASE step may not write, and which
operations may write the logical planes, RUNSTATE, CADJ, the derived planes and the stamps. The bus row of R50 is
BusIsOwnedByRunState. -/
def Obligations.AgentsKeepToTheirRights : Prop :=
  ∀ s t : State, Inv s → step s = .next t →
    (∀ g k, t.turn = .host g k →
      SameDerived s t ∧ t.cadj = s.cadj ∧ SameStamps s t ∧ SamePlace s t ∧ t.pumpTx = s.pumpTx ∧
      (s.copyPending = true → t.copyPending = true) ∧ (s.pendingCmd = true → t.pendingCmd = true) ∧
      (t.creq = none → s.creq = none) ∧ (s.pendingCmd = true → t.cmdq = s.cmdq ∧ t.cmdqLen = s.cmdqLen) ∧
      (SameLogical s t ∨ (∃ sh, Runs s (.fill sh)) ∨ (∃ x y sh, Runs s (.pixel x y sh))) ∧
      (t.runState = s.runState ∨ Runs s .start ∨ Runs s .teardown)) ∧
    (∀ g k, t.turn = .pump g k →
      SameLogical s t ∧ t.cmdq = s.cmdq ∧ t.cmdqLen = s.cmdqLen ∧ SamePort s t ∧ t.hostIn = s.hostIn ∧
      t.hostTx = s.hostTx ∧ (t.copyPending = true → s.copyPending = true) ∧
      (t.pendingCmd = true → s.pendingCmd = true) ∧ (t.creq = none ∨ t.creq = s.creq) ∧
      (t.runState = s.runState ∨ s.ph = 1#4 ∨ s.ph = 13#4) ∧
      (t.cadj = s.cadj ∨ (s.ph = 8#4 ∧ s.sf = 2)) ∧
      (SameDerived s t ∨ (s.ph = 8#4 ∧ s.sf = 2) ∨ (s.ph = 11#4 ∧ t.dp1 = s.dp1 ∧ t.dp2 = s.dp2)) ∧
      (t.ts1 = s.ts1 ∨ s.ph = 2#4) ∧ (t.ts3 = s.ts3 ∨ s.ph = 4#4)) ∧
    (∀ us, t.turn = .timebase us →
      SameLogical s t ∧ SameDerived s t ∧ SameCells s t ∧ SameRegisters s t ∧ SameStamps s t ∧ SamePlace s t ∧
      SameBus s t ∧ SamePort s t ∧ t.hostIn = s.hostIn)

/-- R200, R50, R195, R192: HOST sends only in Waiting or Stopped and only command bytes; PUMP sends only in Starting,
Running or Stopping; outside these states a turn of the agent leaves every line as it is; RES is driven only by START's
bring-up and BRINGUP's. -/
def Obligations.BusIsOwnedByRunState : Prop :=
  ∀ s t : State, Inv s → step s = .next t →
    (∃ sent, t.busLog = s.busLog ++ sent ∧
      (∀ dc b, .byte dc b .host ∈ sent →
        dc = false ∧ (s.runState = .waiting ∨ s.runState = .stopped) ∧ ∃ g k, t.turn = .host g k) ∧
      (∀ dc b, .byte dc b .pump ∈ sent →
        (s.runState = .starting ∨ s.runState = .running ∨ s.runState = .stopping) ∧ ∃ g k, t.turn = .pump g k) ∧
      (∀ level, .res level ∈ sent → BringsUp s t)) ∧
    (t.res ≠ s.res → BringsUp s t) ∧
    (∀ g k, t.turn = .host g k → s.runState ≠ .waiting → s.runState ≠ .stopped → SameBus s t) ∧
    (∀ g k, t.turn = .pump g k → (s.runState = .waiting ∨ s.runState = .stopped) → SameBus s t)

/-- R36, R45, R46, R236, R96: in every step of any state Cfg is unchanged, BUSLOG and the responses only grow at their end,
and `now` does not go back. -/
def Obligations.HistoryOnlyGrows : Prop :=
  ∀ s t : State, step s = .next t →
    t.cfg = s.cfg ∧ s.busLog <+: t.busLog ∧ s.responses <+: t.responses ∧ s.now ≤ t.now

/-- R46, R236: `now` belongs to TIMEBASE and only its turns move it, forward; only PARK, TXPLANE, WAITPRE and WAITSUB read
it: the step of any other turn is the same with any other `now`; and only PUMP runs these four. -/
def Obligations.NowIsTimebasesAndReadByFourOperations : Prop :=
  ∀ s t : State, step s = .next t →
    (∀ us, t.turn = .timebase us →
      t.now = s.now + us ∧ ∀ n, step { s with now := n } = .next { t with now := n + us }) ∧
    ((∀ us, t.turn ≠ .timebase us) →
      t.now = s.now ∧ (¬ ReadsNow s → ∀ n, step { s with now := n } = .next { t with now := n })) ∧
    (Inv s → ReadsNow s → ∃ g k, t.turn = .pump g k)
end

