-- ==== Sys2Proof/Machine/Script.lean ====
section
/-! DEFINITION. How calls of the source's interface and lines of the script notation come to operations (00_scope R12;
30_encoding R94, R110, R111, R113). This is the binding in front of the host port: no step of the machine uses it. -/

namespace Sys2Proof.Machine

/-- A call, with the integers the caller wrote (R12, R110). -/
inductive Call
  | fill (shade : Int)
  | pixel (x y shade : Int)
  | showSync
  | showAsync
  | contrast (level : Int)
  | contrastSync (level : Int)
  | start
  | teardown
  | command (bytes : List Int)
  | rdstat
deriving DecidableEq, Repr

/-- An operand in 0 .. 2^w - 1, or none: the binding must not mask a value silently (R113). -/
def unsignedField (w : Nat) (v : Int) : Option (BitVec w) :=
  if 0 ≤ v ∧ v < 2 ^ w then some (BitVec.ofInt w v) else none

/-- The 12-bit field of a coordinate. One outside -2048..2047 is encoded as an out-of-range value of the same sign (R94).
DESIGN CHOICE (log 25): the nearer end of the range. -/
def coordinateField (v : Int) : BitVec 12 := BitVec.ofInt 12 (max (-2048) (min 2047 v))

/-- The bytes of a command, or none where one is no byte (R113). -/
def byteFields : List Int → Option (List Byte)
  | [] => some []
  | v :: vs =>
    match unsignedField 8 v, byteFields vs with
    | some b, some bs => some (b :: bs)
    | _, _ => none

/-- The operation of a call, or none where the binding refuses it (R12, R113). -/
def Call.operation : Call → Option Instr
  | .fill shade => (unsignedField 2 shade).map .fill
  | .pixel x y shade => (unsignedField 2 shade).map (.pixel (coordinateField x) (coordinateField y))
  | .showSync => some .showSync
  | .showAsync => some .showAsync
  | .contrast level => (unsignedField 8 level).map .contrast
  | .contrastSync level => (unsignedField 8 level).map .contrastSync
  | .start => some .start
  | .teardown => some .teardown
  | .command bytes =>
    match byteFields bytes with
    | some bs => if bs.length ≤ maxCommandBytes then some (.command bs) else none
    | none => none
  | .rdstat => some .rdstat

/-- A script line: a call, or one of the two conveniences (R111). -/
inductive ScriptLine
  | call (c : Call)
  | clear
  | waitidle
deriving DecidableEq, Repr

/-- The operation of a line; for `waitidle` the one that is repeated (R111). -/
def ScriptLine.operation : ScriptLine → Option Instr
  | .call c => c.operation
  | .clear => some (.fill 0#2)
  | .waitidle => some .rdstat

/-- Whether `waitidle` ends with this status word: S[3], S[4] and S[5] are 0 (R111). -/
def waitidleEnds (w : HWord) : Bool := w.extractLsb' 3 3 == 0#3

/-! ## Reading a line (R110) -/

/-- The words of a line: blanks and commas separate them. -/
def lineWords : List Char → List (List Char)
  | [] => [[]]
  | c :: cs =>
    if c = ' ' ∨ c = '\t' ∨ c = ',' then [] :: lineWords cs
    else
      match lineWords cs with
      | [] => [[c]]
      | w :: ws => (c :: w) :: ws

/-- The value of a digit. -/
def digitValue (c : Char) : Option Nat :=
  if '0' ≤ c ∧ c ≤ '9' then some (c.toNat - 48)
  else if 'a' ≤ c ∧ c ≤ 'f' then some (c.toNat - 87)
  else if 'A' ≤ c ∧ c ≤ 'F' then some (c.toNat - 55)
  else none

/-- The value of digits in a base, after the value read so far. -/
def digitsValue (base acc : Nat) : List Char → Option Nat
  | [] => some acc
  | c :: cs =>
    match digitValue c with
    | some d => if d < base then digitsValue base (acc * base + d) cs else none
    | none => none

/-- A number: decimal, signed decimal, or `0x` hexadecimal (R110). -/
def readNumber : List Char → Option Int
  | [] => none
  | '0' :: 'x' :: c :: cs => (digitsValue 16 0 (c :: cs)).map Int.ofNat
  | '-' :: c :: cs => (digitsValue 10 0 (c :: cs)).map fun n => -Int.ofNat n
  | c :: cs => (digitsValue 10 0 (c :: cs)).map Int.ofNat

/-- All the numbers, or none where a word is no number. -/
def readNumbers : List (List Char) → Option (List Int)
  | [] => some []
  | w :: ws =>
    match readNumber w, readNumbers ws with
    | some v, some vs => some (v :: vs)
    | _, _ => none

/-- A line from its mnemonic and its numbers (R110, R111). -/
def scriptLine (mnemonic : List Char) (args : List Int) : Option ScriptLine :=
  match String.ofList mnemonic, args with
  | "fill", [sh] => some (.call (.fill sh))
  | "pixel", [x, y, sh] => some (.call (.pixel x y sh))
  | "show", [] => some (.call .showSync)
  | "showa", [] => some (.call .showAsync)
  | "contrast", [l] => some (.call (.contrast l))
  | "contrasts", [l] => some (.call (.contrastSync l))
  | "start", [] => some (.call .start)
  | "teardown", [] => some (.call .teardown)
  | "command", b :: bs => some (.call (.command (b :: bs)))
  | "rdstat", [] => some (.call .rdstat)
  | "clear", [] => some .clear
  | "waitidle", [] => some .waitidle
  | _, _ => none

/-- One line of a script, its comment dropped; none for a blank line or one that is no operation (R110). -/
def readLine (line : List Char) : Option ScriptLine :=
  match (lineWords (line.takeWhile fun c => c != ';')).filter fun w => !w.isEmpty with
  | [] => none
  | m :: ws =>
    match readNumbers ws with
    | some args => scriptLine m args
    | none => none

end Sys2Proof.Machine
end

