-- ==== Sys2Proof/Tests/Slice0.lean ====
section
/-! SUPPORT. Tests. Expected values are taken from spec/95_test_vectors.md (V-…) or worked by hand from the rules named.
The last part holds, for each statement with hypotheses, a witness that meets them. -/

open Sys2Proof Sys2Proof.Machine

namespace Sys2Proof.Tests

set_option Elab.async false

/-! ## States to test on, all under TC1 -/

/-- A plane of 360 equal bytes. -/
def flat (v : Byte) : Memory := Memory.ofFn fun _ => v

/-- Running, the pump about to PARK, nothing pending, every plane given. -/
def base : State :=
  { State.initial Config.tc1 with
    la := flat 0x0F#8, lb := flat 0x3C#8, dp0 := flat 0#8, dp1 := flat 0x3C#8, dp2 := flat 0#8
    runState := .running, ph := 2#4 }

/-- A host operation under way, in an at-once turn. -/
def hosting (i : Instr) : State := { base with hop := some i, turn := .host .atOnce 0 }

/-- The pump at a micro-operation, in an at-once turn. -/
def pumping (p : BitVec 4) (k : Fin 3) : State := { base with ph := p, sf := k, turn := .pump .atOnce 0 }

/-- Whether an operation answered a next state of which `f` holds. -/
def after (r : Result) (f : State → Bool) : Bool :=
  match r with
  | .next t => f t
  | .fault _ => false
  | .refused _ => false

/-- The events of BUSLOG are these bytes, all commands, of one agent. -/
def commandsOf (who : Agent) (bytes : List Byte) : List BusEvent := bytes.map fun b => .byte false b who

/-! ## Well-formedness -/

theorem test_wf_refuses_command_256 : (Instr.command (List.replicate 256 0#8)).wf = false := by decide +kernel
theorem test_wf_accepts_command_255 : (Instr.command (List.replicate 255 0#8)).wf = true := by decide +kernel

/-! ## Decoding: words written out from R91, R92, R103, R105 -/

theorem test_decode_fill : decodeHost [0b0001_00000000000000000000000000_10#32] = .ok (.fill 2#2) [] := by decide
theorem test_decode_pixel :
    decodeHost [0b0010_000000100011_000000010100_00_10#32] = .ok (.pixel 35#12 20#12 2#2) [] := by decide
theorem test_decode_pixel_signed : decodeHost [0x28008003#32] = .ok (.pixel 0x800#12 0x800#12 3#2) [] := by decide
theorem test_decode_show : decodeHost [0b0011_0000000000000000000000000000#32] = .ok .showSync [] := by decide
theorem test_decode_showa : decodeHost [0b0100_0000000000000000000000000000#32] = .ok .showAsync [] := by decide
theorem test_decode_contrast :
    decodeHost [0b0101_00000000000000000000_10000001#32] = .ok (.contrast 129#8) [] := by decide
theorem test_decode_contrasts :
    decodeHost [0b0110_00000000000000000000_10000000#32] = .ok (.contrastSync 128#8) [] := by decide
theorem test_decode_start : decodeHost [0b0111_0000000000000000000000000000#32] = .ok .start [] := by decide
theorem test_decode_teardown : decodeHost [0b1000_0000000000000000000000000000#32] = .ok .teardown [] := by decide
theorem test_decode_command :
    decodeHost [0b1001_00000000000000000000_00000010#32, 0b00000000_00000000_10100110_10100111#32, 7#32]
      = .ok (.command [0xA7#8, 0xA6#8]) [7#32] := by decide
theorem test_decode_rdstat : decodeHost [0b1010_0000000000000000000000000000#32] = .ok .rdstat [] := by decide
theorem test_decode_idle : decodePhase 0b0000#4 = some .idle := by decide
theorem test_decode_bringup : decodePhase 0b0001#4 = some .bringup := by decide
theorem test_decode_park : decodePhase 0b0010#4 = some .park := by decide
theorem test_decode_waitpre : decodePhase 0b0011#4 = some .waitpre := by decide
theorem test_decode_txplane : decodePhase 0b0100#4 = some .txplane := by decide
theorem test_decode_cadj1 : decodePhase 0b0101#4 = some .cadj1 := by decide
theorem test_decode_resume : decodePhase 0b0110#4 = some .resume := by decide
theorem test_decode_cadj2 : decodePhase 0b0111#4 = some .cadj2 := by decide
theorem test_decode_maint : decodePhase 0b1000#4 = some .maint := by decide
theorem test_decode_waitsub : decodePhase 0b1001#4 = some .waitsub := by decide
theorem test_decode_next : decodePhase 0b1010#4 = some .next := by decide
theorem test_decode_blank : decodePhase 0b1011#4 = some .blank := by decide
theorem test_decode_txfinal : decodePhase 0b1100#4 = some .txfinal := by decide
theorem test_decode_setstop : decodePhase 0b1101#4 = some .setstop := by decide
theorem test_decode_halt : decodePhase 0b1110#4 = some .halt := by decide
theorem test_decode_phase15_is_none : decodePhase 0b1111#4 = none := by decide
theorem test_decode_txc : decodeFrame 0b0_10000001#9 = .txc 0x81#8 := by decide
theorem test_decode_txd : decodeFrame 0b1_11111110#9 = .txd 0xFE#8 := by decide

/-- V-ENC: illegal words, and the words a refused COMMAND takes (V-CTL 22). -/
theorem test_decode_illegal :
    decodeHost [0x2000000C#32] = .illegal .reservedBit [] ∧ decodeHost [0x50000100#32] = .illegal .reservedBit [] ∧
    decodeHost [0xB0000000#32] = .illegal .reservedOpcode [] ∧ decodeHost [0xF0000000#32] = .illegal .reservedOpcode [] ∧
    decodeHost [0x90000001#32, 0x0000A7A7#32] = .illegal .padding [] ∧
    decodeHost [0x90000011#32, 0#32, 0#32, 0#32, 0#32] = .waiting := by decide

theorem test_table_word : decodeTableWord 32 0xA0000000 = some .rdstat ∧ decodeTableWord 8 8 = some .maint
    ∧ decodeTableWord 16 0x181 = some (.txd 0x81#8) := by decide +kernel

/-! ## Script lines and calls (R100, R110, R111, R113) -/

theorem test_script_pixel : (readLine "pixel -1,0,3  ; out of range".toList).bind ScriptLine.operation
    = some (.pixel 0xFFF#12 0#12 3#2) := by decide +kernel
theorem test_script_command : (readLine "command 0x81 0x7F 166".toList).bind ScriptLine.operation
    = some (.command [0x81#8, 0x7F#8, 0xA6#8]) := by decide +kernel
theorem test_binding_refuses : (Call.fill 4).operation = none ∧ (Call.contrast 256).operation = none ∧
    (Call.fill (-1)).operation = none ∧ readLine "fill".toList = none := by decide +kernel
theorem test_binding_keeps_far_coordinates_out_of_range :
    onScreen (coordinateField 5000).toInt 0 = false ∧ onScreen (coordinateField (-4096)).toInt 0 = false := by decide
/-- P3: `waitidle` goes on at 803A and ends at 0002. -/
theorem test_waitidle : waitidleEnds 0x803A#32 = false ∧ waitidleEnds 0x00000002#32 = true := by decide

/-! ## Tables -/

/-- V-CON: levels 3, 200, 255. -/
theorem test_contrast_map_tc1 :
    contrastAt Config.tc1 3#8 = some ⟨⟨0x81#8, 0x00#8⟩, ⟨0x81#8, 0x01#8⟩, ⟨0x81#8, 0x03#8⟩⟩ ∧
    contrastAt Config.tc1 200#8 = some ⟨⟨0x81#8, 0x32#8⟩, ⟨0x81#8, 0x64#8⟩, ⟨0x81#8, 0xC8#8⟩⟩ ∧
    contrastAt Config.tc1 255#8 = some ⟨⟨0x81#8, 0x3F#8⟩, ⟨0x81#8, 0x7F#8⟩, ⟨0x81#8, 0xFF#8⟩⟩ := by decide +kernel

/-- V-CON: saturation in the suggested shape, l = 100 and l = 50. -/
theorem test_ramp_saturates :
    (Config.Ramp.pair ⟨0x81#8, 3, 0, 16⟩ 100#8).b1 = 0xFF#8 ∧ (Config.Ramp.pair ⟨0x81#8, 3, 0, 16⟩ 50#8).b1 = 0xA6#8 := by
  decide

/-- V-RST: both straps, and the configurations construction refuses. -/
theorem test_construction :
    (State.initial Config.tc1).runState = .waiting ∧ (State.initial Config.tc1).ph = 0#4 ∧
    (State.initial { Config.tc1 with startMode := .immediate }).runState = .starting ∧
    (State.initial { Config.tc1 with startMode := .immediate }).ph = 1#4 ∧
    (Cfg.ok { Config.tc1 with tSubUs := 0 }) = false ∧ (Cfg.ok { Config.tc1 with cmdqMax := 0 }) = false ∧
    (Cfg.ok { Config.tc1 with cmdqMax := 256 }) = false := by decide +kernel

/-! ## Host operations, one step each -/

/-- V-FILL: fill 2. -/
theorem test_fill : after (exec (.fill 2#2) (hosting (.fill 2#2))) (fun t =>
    t.la.read 359 == some 0x00#8 && t.lb.read 0 == some 0xFF#8 && t.dp1.read 0 == some 0x3C#8
      && t.responses == [.done]) = true := by decide +kernel

/-- V-PIX: pixel 71,39,3 on bytes 0F and 3C sets bit 7 of byte 359. -/
theorem test_pixel : after (exec (.pixel 71#12 39#12 3#2) (hosting (.pixel 71#12 39#12 3#2))) (fun t =>
    t.la.read 359 == some 0x8F#8 && t.lb.read 359 == some 0xBC#8 && t.la.read 358 == some 0x0F#8
      && t.responses == [.done]) = true := by decide +kernel

/-- V-OOR: pixel -1,39,1 would have hit byte 287. -/
theorem test_pixel_out_of_range : after (exec (.pixel 0xFFF#12 39#12 1#2) (hosting (.pixel 0xFFF#12 39#12 1#2))) (fun t =>
    t.la == flat 0x0F#8 && t.lb == flat 0x3C#8 && t.responses == [.done]) = true := by decide +kernel

/-- V-CTL 6 (Stopped: at once) and 7 (Running: waits). -/
theorem test_show : after (exec .showSync { hosting .showSync with runState := .stopped }) (fun t =>
    t.copyPending && t.responses == [.done]) = true := by decide +kernel
theorem test_show_waits : after (exec .showSync (hosting .showSync)) (fun t =>
    t.copyPending && t.responses == [] && t.hph == .poll) = true := by decide +kernel

/-- V-CTL 8. -/
theorem test_showa : after (exec .showAsync (hosting .showAsync)) (fun t =>
    t.copyPending && t.responses == [.done]) = true := by decide +kernel

/-- V-CTL 11. -/
theorem test_contrast : after (exec (.contrast 10#8) { hosting (.contrast 10#8) with creq := some 0x80#8 }) (fun t =>
    t.creq == some 10#8 && t.cadj == base.cadj && t.responses == [.done]) = true := by decide +kernel

/-- V-CTL 12. -/
theorem test_contrasts : after (exec (.contrastSync 255#8) { hosting (.contrastSync 255#8) with runState := .waiting })
    (fun t => t.creq == some 255#8 && t.responses == [.done]) = true := by decide +kernel

/-- V-CTL 1, past its second wait, and 3. -/
theorem test_start : after (exec .start { hosting .start with
      runState := .waiting, ph := 0#4, hph := .bring [.cmd 0xAE#8, .cmd 0x8D#8, .cmd 0x14#8, .cmd 0xAF#8] }) (fun t =>
    t.runState == .running && t.responses == [.done] && t.now == 0
      && t.busLog == commandsOf .host [0xAE#8, 0x8D#8, 0x14#8, 0xAF#8]) = true := by decide +kernel
theorem test_start_stopped : after (exec .start { hosting .start with runState := .stopped }) (fun t =>
    t.runState == .stopped && t.busLog == [] && t.responses == [.done]) = true := by decide +kernel

/-- V-CTL 17, and 15's last action. -/
theorem test_teardown_waiting : after (exec .teardown { hosting .teardown with runState := .waiting }) (fun t =>
    t.runState == .waiting && t.responses == [.err .state]) = true := by decide +kernel
theorem test_teardown_restores : after (exec .teardown { hosting .teardown with runState := .stopped, hph := .restore })
    (fun t => t.busLog == commandsOf .host [0xA8#8, 0x27#8, 0xD3#8, 0x00#8] && t.responses == [.done]) = true := by
  decide +kernel

/-- V-CTL 19 and 24. -/
theorem test_command : after (exec (.command [0xA7#8]) (hosting (.command [0xA7#8]))) (fun t =>
    t.cmdq[0]? == some 0xA7#8 && t.cmdq.length == 16 && t.cmdqLen == 1#8 && t.pendingCmd && t.responses == [.done])
    = true := by decide +kernel
theorem test_command_length_first : after (exec (.command []) { hosting (.command []) with pendingCmd := true }) (fun t =>
    t.responses == [.err .len]) = true := by decide +kernel

/-- V-CTL 28 and 34. -/
theorem test_rdstat : after (exec .rdstat
    { hosting .rdstat with copyPending := true, pendingCmd := true, creq := some 0x80#8 }) (fun t =>
      t.responses == [.status 0x0000803A#32]) = true := by decide +kernel
theorem test_rdstat_stopped : after (exec .rdstat { hosting .rdstat with runState := .stopped, creq := some 0xFF#8 })
    (fun t => t.responses == [.status 0x0000FF24#32]) = true := by decide +kernel

/-! ## Pump micro-operations, one step each (V-PMP) -/

theorem test_idle_waits : after (exec .idle { pumping 0#4 0 with runState := .waiting }) (fun t => t.ph == 0#4) = true := by
  decide +kernel
theorem test_idle_released : after (exec .idle { pumping 0#4 0 with runState := .stopping }) (fun t =>
    t.ph == 2#4 && t.sf == 0) = true := by decide +kernel
/-- R194's example, TC1: Res(0), then the first wait of 10; past the second wait, four command bytes, then Running. -/
theorem test_bringup : after (exec .bringup { pumping 1#4 0 with runState := .starting }) (fun t =>
    t.runState == .starting && t.ph == 1#4 && t.now == 0 && t.waitLeft == 10 && !t.res && t.busLog == [.res false]) = true := by
  decide +kernel
theorem test_bringup_ends : after (exec .bringup { pumping 1#4 0 with
      runState := .starting, pph := .bring [.cmd 0xAE#8, .cmd 0x8D#8, .cmd 0x14#8, .cmd 0xAF#8] }) (fun t =>
    t.runState == .running && t.ph == 2#4 && t.busLog == commandsOf .pump [0xAE#8, 0x8D#8, 0x14#8, 0xAF#8]) = true := by
  decide +kernel
theorem test_park : after (exec .park { pumping 2#4 0 with now := 1000 }) (fun t =>
    t.ts1 == 1000 && t.ph == 3#4 && t.busLog == commandsOf .pump [0xA8#8, 0x00#8, 0xD3#8, 0x34#8]) = true := by
  decide +kernel
theorem test_waitpre_before : after (exec .waitpre { pumping 3#4 0 with ts1 := 1000, now := 1784 }) (fun t =>
    t.ph == 3#4) = true := by decide +kernel
theorem test_waitpre_at : after (exec .waitpre { pumping 3#4 0 with ts1 := 1000, now := 1785 }) (fun t =>
    t.ph == 4#4) = true := by decide +kernel
theorem test_txplane : after (exec .txplane { pumping 4#4 1 with now := 1785 }) (fun t =>
    t.ts3 == 1785 && t.ph == 5#4 && t.dc && t.cs && t.busLog == List.replicate 360 (.byte true 0x3C#8 .pump)) = true := by
  decide +kernel
theorem test_cadj1 : after (exec .cadj1 (pumping 5#4 1)) (fun t =>
    t.ph == 6#4 && t.busLog == commandsOf .pump [0x81#8, 0x3F#8]) = true := by decide +kernel
theorem test_resume : after (exec .resume (pumping 6#4 2)) (fun t =>
    t.ph == 7#4 && t.busLog == commandsOf .pump [0xD3#8, 0x2F#8, 0xA8#8, 0x38#8]) = true := by decide +kernel
theorem test_cadj2 : after (exec .cadj2 (pumping 7#4 2)) (fun t =>
    t.ph == 8#4 && t.busLog == commandsOf .pump [0x81#8, 0x7F#8]) = true := by decide +kernel
theorem test_maint_copy : after (exec .maint
    { pumping 8#4 2 with copyPending := true, creq := some 0x80#8, pendingCmd := true }) (fun t =>
      t.dp0 == flat 0x3F#8 && t.dp1 == flat 0x3C#8 && t.dp2 == flat 0x0C#8 && !t.copyPending && t.pendingCmd
        && t.creq == some 0x80#8 && t.cadj == base.cadj && t.ph == 9#4) = true := by decide +kernel
theorem test_maint_contrast : after (exec .maint { pumping 8#4 2 with creq := some 0x80#8, pendingCmd := true }) (fun t =>
    t.cadj == ⟨⟨0x81#8, 0x20#8⟩, ⟨0x81#8, 0x40#8⟩, ⟨0x81#8, 0x80#8⟩⟩ && t.creq == none && t.pendingCmd && t.ph == 9#4)
    = true := by decide +kernel
theorem test_waitsub_before : after (exec .waitsub { pumping 9#4 0 with ts3 := 1785, now := 6493 }) (fun t =>
    t.ph == 9#4) = true := by decide +kernel
theorem test_waitsub_at : after (exec .waitsub { pumping 9#4 0 with ts3 := 1785, now := 6494 }) (fun t =>
    t.ph == 10#4) = true := by decide +kernel
theorem test_next : after (exec .next { pumping 10#4 1 with runState := .stopping }) (fun t =>
    t.sf == 2 && t.ph == 2#4) = true := by decide +kernel
theorem test_next_stops : after (exec .next { pumping 10#4 2 with runState := .stopping }) (fun t =>
    t.sf == 0 && t.ph == 11#4) = true := by decide +kernel
theorem test_blank : after (exec .blank { pumping 11#4 0 with dp0 := flat 0xFF#8, dp1 := flat 0xFF#8 }) (fun t =>
    t.dp0 == flat 0#8 && t.dp1 == flat 0xFF#8 && t.ph == 12#4) = true := by decide +kernel
theorem test_txfinal : after (exec .txfinal (pumping 12#4 0)) (fun t =>
    t.ph == 13#4 && t.busLog == List.replicate 360 (.byte true 0x00#8 .pump)) = true := by decide +kernel
theorem test_setstop : after (exec .setstop { pumping 13#4 0 with runState := .stopping }) (fun t =>
    t.runState == .stopped && t.ph == 14#4) = true := by decide +kernel
theorem test_halt : after (exec .halt { pumping 14#4 0 with runState := .stopped }) (fun t => t.ph == 14#4) = true := by
  decide +kernel

/-! ## Bus primitives (V-BUS) -/

/-- 0x81 most significant bit first leaves SDO at 1; another command frame follows, so CS stays low. -/
theorem test_txc : after (exec (.txc 0x81#8) { pumping 5#4 0 with pumpTx := [0x07F#9] }) (fun t =>
    t.busLog == [.byte false 0x81#8 .pump] && !t.cs && !t.dc && t.sdo && !t.sck) = true := by decide +kernel
/-- The last frame: CS is released. -/
theorem test_txd : after (exec (.txd 0xFE#8) (pumping 4#4 0)) (fun t =>
    t.busLog == [.byte true 0xFE#8 .pump] && t.cs && t.dc && !t.sdo) = true := by decide +kernel

/-! ## Stepwise grain -/

/-- P5 step 2: COMPOSE reads index 0 of LA first (pick 0), then of LB, and then writes the three derived bytes. -/
theorem test_compose_step : after (exec .maint
    { pumping 8#4 2 with copyPending := true, turn := .pump .stepwise 0,
                         pph := .compose [{ idx := 0, a := some 0x05#8, b := none }] }) (fun t =>
      t.dp0.read 0 == some 0x3D#8 && t.dp2.read 0 == some 0x04#8 && t.dp0.read 1 == some 0#8 && t.pph == .clearCopy)
    = true := by decide +kernel

/-! ## Fetch -/

theorem test_step_runs_placed_word :
    after (step (State.withFetchWord base 32 0x500000FF)) (fun t => t.creq == some 255#8) = true := by decide +kernel

/-! ## Witnesses: states and operands that meet the hypotheses of each statement, at the ends of their ranges -/

/-- The state with its next turns. -/
def sched (s : State) (ts : List Turn) : State := { s with sched := ts }

/-- `base` in an at-once turn of the host, with nothing in flight yet. -/
def idle : State := { base with turn := .host .atOnce 0 }

theorem base_planesOk : base.planesOk = true := by decide +kernel

/-- The longest COMMAND, with words after it. -/
theorem witness_HostDecodeReadsEncodedWords :
    (Instr.command (List.replicate 255 0xFF#8)).wf = true ∧
    encode (.command (List.replicate 255 0xFF#8))
      = .host (0x900000FF#32 :: (List.replicate 63 0xFFFFFFFF#32 ++ [0x00FFFFFF#32])) := by decide +kernel
theorem witness_DecodeReversesEncode : (Instr.command (List.replicate 255 0#8)).wf = true
    ∧ (Instr.pixel 0x800#12 0x7FF#12 3#2).wf = true := by decide +kernel
theorem witness_DecodedWordsAreTheOperationsCode :
    decodeHost [0x90000002#32, 0x0000A6A7#32, 1#32] = .ok (.command [0xA7#8, 0xA6#8]) [1#32] ∧
    decodePhase 14#4 = some .halt ∧ decodePhase 15#4 = none := by decide +kernel
/-- A reserved bit, a reserved opcode, a legal word, and an illegal COMMAND header, which takes no word with it (log 10). -/
theorem witness_WordIsIllegalUnlessOneRowSelectsIt :
    (hostTable.all fun r => !r.selects 0x10000004#32) = true ∧ (hostTable.all fun r => !r.selects 0xB0000000#32) = true ∧
    (hostTable.any fun r => r.selects 0x10000003#32) = true ∧
    (hostTable.all fun r => !r.selects 0x90000101#32) = true ∧
    decodeHost [0x90000101#32, 7#32] = .illegal .reservedBit [7#32] := by decide +kernel

/-- One state for each reason: reserved opcode, reserved bit, padding. -/
theorem witness_IllegalWordChangesNothing :
    ∀ ws ∈ [[0xF0000000#32], [0x30000001#32, 7#32], [0x90000001#32, 0x0000A7A7#32]],
      (sched { base with hostIn := ws } [.host .stepwise 5]).sched = .host .stepwise 5 :: [] ∧
      base.hostTx = [] ∧ base.hop = none ∧ base.hph = .issue ∧
      ∃ why rest, decodeHost ws = .illegal why rest := by
  intro ws h
  refine ⟨rfl, rfl, rfl, rfl, ?_⟩
  simp only [List.mem_cons, List.not_mem_nil, or_false] at h
  obtain rfl | rfl | rfl := h
  · exact ⟨.reservedOpcode, [], by decide⟩
  · exact ⟨.reservedBit, [7#32], by decide⟩
  · exact ⟨.padding, [], by decide⟩

/-- Each clause: words at the port; an operation in flight; no word, and a COMMAND without its payload; the first and the
last phase; a frame of each kind pending at each agent; time. -/
theorem witness_TurnRunsItsOperation :
    ((Instr.contrast 255#8).wf = true ∧ encode (.contrast 255#8) = .host [0x500000FF#32] ∧
      { base with hostIn := [0x500000FF#32] }.hostIn = [0x500000FF#32] ++ [] ∧
      (sched base [.host .stepwise 0]).sched = [.host .stepwise 0] ∧ base.hostTx = [] ∧ base.hop = none) ∧
    ((sched (hosting .showSync) [.host .atOnce 1]).sched = [.host .atOnce 1] ∧ (hosting .showSync).hostTx = [] ∧
      (hosting .showSync).hop = some .showSync) ∧
    (decodeHost base.hostIn = .waiting ∧ decodeHost [0x900000FF#32, 1#32] = .waiting) ∧
    (encode .halt = .phase (pumping 14#4 0).ph ∧ encode .idle = .phase (pumping 0#4 0).ph ∧
      (sched (pumping 14#4 0) [.pump .atOnce 0]).sched = [.pump .atOnce 0] ∧ (pumping 14#4 0).pumpTx = []) ∧
    (encode (.txd 0xFF#8) = .frame 0x1FF#9 ∧ encode (.txc 0#8) = .frame 0#9 ∧
      (sched { base with pumpTx := [0x1FF#9, 0#9] } [.pump .stepwise 0]).sched = [.pump .stepwise 0] ∧
      { base with pumpTx := [0x1FF#9, 0#9] }.pumpTx = [0x1FF#9, 0#9]) ∧
    ((sched { base with hostTx := [0#9] } [.host .stepwise 0]).sched = [.host .stepwise 0] ∧
      { base with hostTx := [0#9] }.hostTx = [0#9]) ∧
    (sched base [.timebase 0]).sched = [.timebase 0] :=
  ⟨⟨by decide, by decide, rfl, rfl, rfl, rfl⟩, ⟨rfl, rfl, rfl⟩, ⟨by decide, by decide⟩, ⟨rfl, rfl, rfl, rfl⟩,
    ⟨by decide, by decide, rfl, rfl⟩, ⟨rfl, rfl⟩, rfl⟩

/-- Both clauses, at both ends of CMDQ_MAX's range (R221). -/
theorem witness_ConstructionValues :
    Cfg.ok { Config.tc1 with cmdqMax := 0 } = false ∧ Cfg.ok { Config.tc1 with cmdqMax := 256 } = false ∧
    Cfg.ok { Config.tc1 with cmdqMax := 1 } = true ∧
    Cfg.ok { Config.tc1 with cmdqMax := 255, startMode := .immediate } = true := by decide +kernel

theorem witness_FillSetsEveryByte : AtIssue idle := ⟨rfl, rfl⟩
theorem witness_FillInAnyOrderEqualsAtOnce :
    base.hph = .issue ∧ base.planesOk = true ∧ (List.replicate 721 5).length = 721 :=
  ⟨rfl, base_planesOk, List.length_replicate⟩

/-- The corners (0,0) and (71,39). -/
theorem witness_PixelUpdatesOneByteOfEachPlane : AtIssue idle ∧ idle.planesOk = true ∧
    (0 ≤ (0#12).toInt ∧ (0#12).toInt < 72 ∧ (0#12).toInt < 40) ∧
    (0 ≤ (71#12).toInt ∧ (71#12).toInt < 72 ∧ 0 ≤ (39#12).toInt ∧ (39#12).toInt < 40) :=
  ⟨⟨rfl, rfl⟩, base_planesOk, by decide, by decide⟩
/-- One coordinate outside each of the four edges. -/
theorem witness_PixelOutOfRangeIsNoOp : base.hph = .issue ∧
    (0xFFF#12).toInt < 0 ∧ 72 ≤ (72#12).toInt ∧ (0x800#12).toInt < 0 ∧ 40 ≤ (40#12).toInt := by
  refine ⟨rfl, ?_⟩; decide
theorem witness_PixelSetsExactlyItsShade : AtIssue idle ∧ idle.planesOk = true ∧
    0 ≤ (71#12).toInt ∧ (71#12).toInt < 72 ∧ 0 ≤ (39#12).toInt ∧ (39#12).toInt < 40 :=
  ⟨⟨rfl, rfl⟩, base_planesOk, by decide⟩
theorem witness_PixelInAnyOrderEqualsAtOnce : base.hph = .issue ∧ base.planesOk = true ∧
    onScreen (71#12).toInt (39#12).toInt = true ∧ [3, 1, 4, 1, 5].length = 5 :=
  ⟨rfl, base_planesOk, by decide, rfl⟩
theorem witness_FillThenComposeIsUniform : (0 < planeBytes) ∧ (359 < planeBytes) := by decide
theorem witness_PixelThenComposeDecodesToShade : base.planesOk = true ∧ 71 < 72 ∧ 39 < 40 :=
  ⟨base_planesOk, by decide, by decide⟩

/-! The checkpoint. -/

theorem witness_MaintComposesAndClears : AtStart { pumping 8#4 2 with copyPending := true } ∧
    { pumping 8#4 2 with copyPending := true }.sf = 2 ∧ { pumping 8#4 2 with copyPending := true }.planesOk = true ∧
    { pumping 8#4 2 with copyPending := true }.copyPending = true := ⟨⟨rfl, rfl⟩, rfl, base_planesOk, rfl⟩
theorem witness_MaintRecomputesContrast : AtStart { pumping 8#4 2 with creq := some 255#8 } ∧
    { pumping 8#4 2 with creq := some 255#8 }.sf = 2 ∧ Config.tc1.ok = true ∧
    { pumping 8#4 2 with creq := some 255#8 }.copyPending = false ∧
    { pumping 8#4 2 with creq := some 255#8 }.creq = some 255#8 :=
  ⟨⟨rfl, rfl⟩, rfl, by decide +kernel, rfl, rfl⟩
/-- Clause 1 in both subframes it speaks of; clauses 2 and 3 with the flag clear and set. -/
theorem witness_MaintSendsQueueOrNothing :
    ((pumping 8#4 0).pph = .start ∧ (pumping 8#4 0).sf ≠ 2) ∧ ((pumping 8#4 1).pph = .start ∧ (pumping 8#4 1).sf ≠ 2) ∧
    (AtStart (pumping 8#4 2) ∧ (pumping 8#4 2).sf = 2 ∧ (pumping 8#4 2).copyPending = false ∧
      (pumping 8#4 2).creq = none ∧ (pumping 8#4 2).pendingCmd = false) ∧
    (AtStart { pumping 8#4 2 with pendingCmd := true, cmdqLen := 16#8 } ∧
      { pumping 8#4 2 with pendingCmd := true, cmdqLen := 16#8 }.pendingCmd = true) :=
  ⟨⟨rfl, by decide⟩, ⟨rfl, by decide⟩, ⟨⟨rfl, rfl⟩, rfl, rfl, rfl, rfl⟩, ⟨rfl, rfl⟩, rfl⟩
theorem witness_AtMostOneRequestServed :
    (after (exec .maint { pumping 8#4 2 with copyPending := true }) fun t => t.copyPending != true) = true ∧
    (after (exec .maint { pumping 8#4 2 with creq := some 0#8 }) fun t => t.creq != some 0#8) = true ∧
    (after (exec .maint { pumping 8#4 2 with pendingCmd := true }) fun t => t.pendingCmd != true) = true ∧
    (after (exec .maint (pumping 8#4 1)) fun _ => true) = true := by decide +kernel
theorem witness_ComposeInAnyOrderEqualsAtOnce : (pumping 8#4 2).pph = .start ∧ (pumping 8#4 2).sf = 2 ∧
    { pumping 8#4 2 with copyPending := true }.planesOk = true ∧
    { pumping 8#4 2 with copyPending := true }.copyPending = true ∧ (List.replicate 722 7).length = 722 :=
  ⟨rfl, rfl, base_planesOk, rfl, List.length_replicate⟩
theorem witness_ComposeKeepsContainment : base.planesOk = true ∧ 359 < planeBytes ∧
    (after (exec .maint { pumping 8#4 2 with copyPending := true }) fun _ => true) = true :=
  ⟨base_planesOk, by decide, by decide +kernel⟩
theorem witness_ComposeIsUnaryInThreeSteps : AtStart { pumping 8#4 2 with copyPending := true } ∧
    { pumping 8#4 2 with copyPending := true }.sf = 2 ∧ { pumping 8#4 2 with copyPending := true }.planesOk = true ∧
    { pumping 8#4 2 with copyPending := true }.copyPending = true ∧
    (after (exec .maint { pumping 8#4 2 with copyPending := true }) fun _ => true) = true :=
  ⟨⟨rfl, rfl⟩, rfl, base_planesOk, rfl, by decide +kernel⟩

/-! Control operations. -/

theorem witness_ShowRespondsOrWaits :
    (AtIssue { idle with runState := .stopped } ∧ { idle with runState := .stopped }.runState ≠ .running) ∧
    (AtIssue idle ∧ idle.runState = .running) ∧
    ({ idle with hph := .poll }.hph = .poll ∧ { idle with hph := .poll }.copyPending = false) ∧
    ({ idle with hph := .poll, copyPending := true }.hph = .poll ∧
      { idle with hph := .poll, copyPending := true }.copyPending = true) :=
  ⟨⟨⟨rfl, rfl⟩, nofun⟩, ⟨⟨rfl, rfl⟩, rfl⟩, ⟨rfl, rfl⟩, rfl, rfl⟩
theorem witness_RequestsWithoutWaiting : idle.hph = .issue ∧ { idle with creq := some 0x80#8 }.hph = .issue := ⟨rfl, rfl⟩
theorem witness_ContrastSyncRespondsOrWaits :
    (AtIssue { idle with runState := .waiting } ∧ { idle with runState := .waiting }.runState ≠ .running) ∧
    (AtIssue idle ∧ idle.runState = .running) ∧
    ({ idle with hph := .poll }.hph = .poll ∧ { idle with hph := .poll }.creq = none) ∧
    ({ idle with hph := .poll, creq := some 255#8 }.hph = .poll ∧
      { idle with hph := .poll, creq := some 255#8 }.creq = some 255#8) :=
  ⟨⟨⟨rfl, rfl⟩, nofun⟩, ⟨⟨rfl, rfl⟩, rfl⟩, ⟨rfl, rfl⟩, rfl, rfl⟩
/-- Each of the five forms; COMMAND at 1 and at CMDQ_MAX = 16 bytes. -/
theorem witness_ControlStepByStepEqualsAtOnce : base.hph = .issue ∧ [0, 0].length = 2 ∧ [0, 0, 0, 0].length = 4 ∧
    (0 < [0xA7#8].length ∧ [0xA7#8].length ≤ base.cfg.cmdqMax ∧ (List.replicate 16 0#8).length ≤ base.cfg.cmdqMax ∧
      base.pendingCmd = false ∧ [0, 0, 0].length = 3) ∧ base.runState = .running := by decide +kernel
/-- Each form: the micro-operations with bursts, and MAINT with a level, with the queue full, and with nothing. -/
theorem witness_PumpStepByStepEqualsAtOnce :
    (∀ p ∈ [2#4, 4#4, 5#4, 6#4, 7#4, 8#4, 12#4],
      (pumping p 2).ph = p ∧ (pumping p 2).pph = .start ∧ (pumping p 2).pumpTx = []) ∧
    (pumping 4#4 2).planesOk = true ∧ (pumping 8#4 2).cfg.ok = true ∧ (pumping 8#4 2).sf = 2 ∧
    (pumping 8#4 2).copyPending = false ∧ { pumping 8#4 2 with creq := some 255#8 }.creq.isSome = true ∧
    (pumping 8#4 2).creq = none ∧ { pumping 8#4 2 with pendingCmd := true, cmdqLen := 16#8 }.pendingCmd = true ∧
    (pumping 8#4 2).pendingCmd = false :=
  ⟨fun _ _ => ⟨rfl, rfl, rfl⟩, base_planesOk, by decide +kernel, rfl, rfl, rfl, rfl, rfl, rfl⟩
theorem witness_BringupAndRestoreStepByStepEqualAtOnce :
    ({ hosting .start with runState := .waiting, ph := 0#4 }.hop = some .start ∧ (hosting .start).hph = .issue ∧
      (hosting .start).hostTx = [] ∧ (hosting .start).waitLeft = 0 ∧ (hosting .start).cfg.startMode = .delayed ∧
      { hosting .start with runState := .waiting, ph := 0#4 }.runState = .waiting) ∧
    ((pumping 1#4 0).ph = 1#4 ∧ (pumping 1#4 0).pph = .start ∧ (pumping 1#4 0).pumpTx = [] ∧
      (pumping 1#4 0).waitLeft = 0) ∧
    ({ hosting .teardown with hph := .restore, runState := .stopped }.hop = some .teardown ∧
      { hosting .teardown with hph := .restore, runState := .stopped }.hph = .restore ∧
      (hosting .teardown).hostTx = []) := ⟨⟨rfl, rfl, rfl, rfl, rfl, rfl⟩, ⟨rfl, rfl, rfl, rfl⟩, rfl, rfl, rfl⟩

/-- START issued, in Waiting. -/
def issuing : State := { hosting .start with runState := .waiting, ph := 0#4 }

/-- The beginning, where a `wait` comes; past the last `wait`, where none does; and the turns of a whole START (TC1: three
of HOST with 10 and 10 microseconds between). -/
theorem witness_StartBringsUpAndReleases :
    (turnGrain issuing.turn = .atOnce ∧ issuing.hph = .issue ∧ issuing.cfg.startMode = .delayed ∧
      issuing.runState = .waiting ∧ (bringWaitAt issuing.cfg.bringupSeq).isSome = true) ∧
    ({ issuing with hph := .bring [.cmd 0xAF#8] }.hph = .bring [.cmd 0xAF#8] ∧
      { issuing with hph := .bring [.cmd 0xAF#8] }.waitLeft = 0 ∧ bringWaitAt [.cmd 0xAF#8] = none) ∧
    (issuing.hop = some .start ∧ issuing.hostTx = [] ∧
      onceTurns (.host .atOnce 0) issuing.cfg.bringupSeq =
        [.host .atOnce 0, .timebase 10, .host .atOnce 0, .timebase 10, .host .atOnce 0]) :=
  ⟨⟨rfl, rfl, rfl, rfl, rfl⟩, ⟨rfl, rfl, rfl⟩, rfl, rfl, rfl⟩
theorem witness_StartIsNoOpElsewhere : (idle.hph = .issue ∧ idle.runState ≠ .waiting) ∧
    { idle with cfg := { Config.tc1 with startMode := .immediate }, runState := .waiting }.cfg.startMode = .immediate :=
  ⟨⟨rfl, nofun⟩, rfl⟩
theorem witness_TeardownByRunState : (AtIssue idle ∧ idle.runState = .running) ∧
    ({ idle with hph := .poll, runState := .stopping }.hph = .poll ∧
      { idle with hph := .poll, runState := .stopping }.runState ≠ .stopped) ∧
    ({ idle with hph := .poll, runState := .stopped }.runState = .stopped) ∧
    ({ idle with hph := .restore }.hph = .restore ∧ turnGrain { idle with hph := .restore }.turn = .atOnce) ∧
    { idle with runState := .stopped }.runState = .stopped ∧
    { idle with runState := .waiting }.runState = .waiting ∧ { idle with runState := .starting }.runState = .starting ∧
    ({ idle with hph := .awaitRunning, runState := .starting }.hph = .awaitRunning ∧
      { idle with hph := .awaitRunning, runState := .starting }.runState ≠ .running) ∧
    ({ idle with hph := .awaitRunning }.hph = .awaitRunning ∧ { idle with hph := .awaitRunning }.runState = .running) ∧
    { idle with hph := .stop }.hph = .stop ∧
    ({ idle with runState := .stopping }.hph = .issue ∧ { idle with runState := .stopping }.runState = .stopping) :=
  ⟨⟨⟨rfl, rfl⟩, rfl⟩, ⟨rfl, nofun⟩, rfl, ⟨rfl, rfl⟩, rfl, rfl, rfl, ⟨rfl, nofun⟩, ⟨rfl, rfl⟩, rfl, rfl, rfl⟩
/-- At 1 byte and at CMDQ_MAX bytes. -/
theorem witness_CommandFillsQueue : AtIssue idle ∧ idle.cfg.ok = true ∧ idle.cmdq.length = idle.cfg.cmdqMax ∧
    (0 < [0xA7#8].length ∧ [0xA7#8].length ≤ idle.cfg.cmdqMax) ∧
    (0 < (List.replicate 16 0xA6#8).length ∧ (List.replicate 16 0xA6#8).length ≤ idle.cfg.cmdqMax) ∧
    idle.pendingCmd = false :=
  ⟨⟨rfl, rfl⟩, by decide +kernel, by decide +kernel, by decide +kernel, by decide +kernel, rfl⟩
/-- No byte, 17 bytes, and a legal length while the queue is taken. -/
theorem witness_CommandRefusals : idle.hph = .issue ∧ ([] : List Byte).length = 0 ∧
    idle.cfg.cmdqMax < (List.replicate 17 0#8).length ∧
    (0 < [0xA6#8].length ∧ [0xA6#8].length ≤ idle.cfg.cmdqMax ∧ { idle with pendingCmd := true }.pendingCmd = true) := by
  refine ⟨rfl, rfl, ?_, ?_, ?_, rfl⟩ <;> decide +kernel
theorem witness_RdstatReportsTheCells : AtIssue idle := ⟨rfl, rfl⟩

/-! Pump micro-operations. -/

theorem witness_IdleWaitsForRelease : { pumping 0#4 0 with runState := .waiting }.runState = .waiting ∧
    (pumping 0#4 0).runState ≠ .waiting := ⟨rfl, nofun⟩
/-- As for START. -/
theorem witness_BringupSendsAndRuns :
    (turnGrain (pumping 1#4 0).turn = .atOnce ∧ (pumping 1#4 0).pph = .start ∧
      (bringWaitAt (pumping 1#4 0).cfg.bringupSeq).isSome = true) ∧
    ({ pumping 1#4 0 with pph := .bring [] }.pph = .bring [] ∧ { pumping 1#4 0 with pph := .bring [] }.waitLeft = 0 ∧
      bringWaitAt [] = none) ∧
    ((pumping 1#4 0).ph = 1#4 ∧ (pumping 1#4 0).pumpTx = [] ∧
      (onceTurns (.pump .atOnce 0) (pumping 1#4 0).cfg.bringupSeq).length = 5) :=
  ⟨⟨rfl, rfl, rfl⟩, ⟨rfl, rfl, rfl⟩, rfl, rfl, rfl⟩
theorem witness_ParkStampsAndSends : AtStart (pumping 2#4 0) := ⟨rfl, rfl⟩
theorem witness_TxplaneSendsThePlane : AtStart (pumping 4#4 2) ∧ (pumping 4#4 2).planesOk = true :=
  ⟨⟨rfl, rfl⟩, base_planesOk⟩
theorem witness_WeightsAndResumeSend : AtStart (pumping 5#4 2) ∧ AtStart (pumping 6#4 0) ∧ AtStart (pumping 7#4 1) :=
  ⟨⟨rfl, rfl⟩, ⟨rfl, rfl⟩, rfl, rfl⟩
theorem witness_NextAdvancesOrStops : (pumping 10#4 0).sf.val < 2 ∧ (pumping 10#4 1).sf.val < 2 ∧
    ({ pumping 10#4 2 with runState := .stopping }.sf = 2 ∧
      { pumping 10#4 2 with runState := .stopping }.runState = .stopping) ∧
    ((pumping 10#4 2).sf = 2 ∧ (pumping 10#4 2).runState ≠ .stopping) :=
  ⟨by decide, by decide, ⟨rfl, rfl⟩, rfl, nofun⟩
theorem witness_StopSequenceOperations : AtStart (pumping 12#4 0) ∧ (pumping 12#4 0).planesOk = true :=
  ⟨⟨rfl, rfl⟩, base_planesOk⟩

/-! The bus. -/

/-- No frame pending, a frame of the same burst, and one of another; the first and the last bit. -/
theorem witness_BusPrimitivesSendOneByte : (pumping 5#4 0).pendingTx (turnSender (pumping 5#4 0).turn) = [] ∧
    { pumping 5#4 0 with pumpTx := [0x07F#9] }.pendingTx (turnSender (pumping 5#4 0).turn) = 0x07F#9 :: [] ∧
    { hosting .start with hostTx := [0x1FF#9] }.pendingTx (turnSender (hosting .start).turn) = 0x1FF#9 :: [] ∧
    0 < 8 ∧ 7 < 8 := ⟨rfl, rfl, rfl, by decide, by decide⟩
/-- A command burst with a display-memory burst behind it at PUMP, and a command burst alone at HOST. -/
theorem witness_BurstFrameByFrameEqualsWhole :
    { sched base (List.replicate 3 (.pump .stepwise 0)) with pumpTx := [0x081#9, 0x07F#9, 0x100#9] }.pumpTx
      = framesOf false [0x81#8, 0x7F#8] ++ framesOf true [0x00#8] ∧
    { sched base (List.replicate 3 (.pump .stepwise 0)) with pumpTx := [0x081#9, 0x07F#9, 0x100#9] }.sched
      = List.replicate ([0x81#8, 0x7F#8].length + [0x00#8].length) (.pump .stepwise 0) ++ [] ∧
    { sched base [.host .atOnce 2] with hostTx := [0x0A8#9] }.hostTx = framesOf false [0xA8#8] ++ framesOf true [] ∧
    { sched base [.host .atOnce 2] with hostTx := [0x0A8#9] }.sched
      = List.replicate ([0xA8#8].length + ([] : List Byte).length) (.host .atOnce 2) ++ [] :=
  ⟨by decide, rfl, by decide, rfl⟩
/-- Both ends: subframe 0, and subframe 2 with a stop requested. -/
theorem witness_SubframeSendsItsBytes : base.cfg.ok = true ∧ base.planesOk = true ∧ base.ph = 2#4 ∧ base.pph = .start ∧
    base.pumpTx = [] ∧ (sched base (subframeTurns Config.tc1)).sched = subframeTurns base.cfg ++ [] ∧
    { base with sf := 2, runState := .stopping }.sf = 2 ∧
    { base with sf := 2, runState := .stopping }.runState = .stopping :=
  ⟨by decide +kernel, base_planesOk, rfl, rfl, rfl, by simp [sched, base, State.initial], rfl, rfl⟩
theorem witness_OuterCycleServesACopyRequest :
    base.cfg.ok = true ∧ base.planesOk = true ∧ base.ph = 2#4 ∧ base.pph = .start ∧ base.sf = 0 ∧ base.pumpTx = [] ∧
    { base with copyPending := true }.copyPending = true ∧
    (sched base (cycleTurns Config.tc1)).sched = cycleTurns base.cfg ++ [] :=
  ⟨by decide +kernel, base_planesOk, rfl, rfl, rfl, rfl, rfl, by simp [sched, base, State.initial]⟩

/-! Hazards. -/

/-- The pump has read a contrast request and a second one stands at the port. -/
def contrastRace : State :=
  { pumping 8#4 2 with
    pph := .recompute 0x80#8, creq := some 0x80#8, hostIn := [0x600000FF#32]
    sched := [.host .atOnce 0, .pump .stepwise 0, .pump .stepwise 0, .host .atOnce 0] }

theorem witness_ContrastRequestCanBeLost : contrastRace.ph = 8#4 ∧ contrastRace.pph = .recompute 0x80#8 ∧
    contrastRace.creq = some 0x80#8 ∧
    contrastAt contrastRace.cfg 0x80#8 = some ⟨⟨0x81#8, 0x20#8⟩, ⟨0x81#8, 0x40#8⟩, ⟨0x81#8, 0x80#8⟩⟩ ∧
    contrastRace.pumpTx = [] ∧ contrastRace.runState = .running ∧ contrastRace.hop = none ∧ contrastRace.hostTx = [] ∧
    contrastRace.hostIn = [wordHL 6#4 255#8] ∧
    contrastRace.sched = .host .atOnce 0 :: .pump .stepwise 0 :: .pump .stepwise 0 :: .host .atOnce 0 :: [] :=
  ⟨rfl, rfl, rfl, by decide +kernel, rfl, rfl, rfl, rfl, by decide, rfl⟩

/-- P5: COMPOSE has the last index left. -/
def showRace : State :=
  { pumping 8#4 2 with
    pph := .compose [{ idx := 359, a := none, b := none }], copyPending := true, dp1 := flat 0#8
    hostIn := [0x20000003#32, 0x30000000#32]
    sched := [.host .atOnce 0, .host .atOnce 0, .pump .stepwise 0, .pump .stepwise 0, .pump .stepwise 0, .host .atOnce 0] }

theorem witness_ShowCanMissAPixel : showRace.planesOk = true ∧ showRace.ph = 8#4 ∧
    showRace.pph = .compose [{ idx := 359, a := none, b := none }] ∧ showRace.copyPending = true ∧ showRace.pumpTx = [] ∧
    showRace.dp0.byteAt 0 = 0#8 ∧ showRace.dp1.byteAt 0 = 0#8 ∧ showRace.dp2.byteAt 0 = 0#8 ∧
    showRace.runState = .running ∧ showRace.hop = none ∧ showRace.hostTx = [] ∧
    showRace.hostIn = [0x20000003#32, 0x30000000#32] ∧
    showRace.sched = .host .atOnce 0 :: .host .atOnce 0 :: .pump .stepwise 0 :: .pump .stepwise 0 :: .pump .stepwise 0
      :: .host .atOnce 0 :: [] :=
  ⟨by decide +kernel, rfl, rfl, rfl, rfl, by decide +kernel, by decide +kernel, by decide +kernel, rfl, rfl, rfl, rfl, rfl⟩

/-! The whole machine. -/

/-- The invariant of a state, from its clauses as one computation. -/
theorem inv_base : Inv base := by constructor <;> decide +kernel

/-- SHOW has just been taken. -/
theorem inv_show : Inv (hosting .showSync) := by constructor <;> decide +kernel

/-- SHOW waits, with its request not yet looked at. -/
def showing : State := { hosting .showSync with hph := .poll, copyPending := true, sched := [.pump .atOnce 0] }

theorem inv_showing : Inv showing := by constructor <;> decide +kernel

/-- SHOW at the stepwise grain: about to write its request, and about to read RUNSTATE with the request served. -/
def showIssued : State := { hosting .showSync with runState := .stopped, ph := 14#4, turn := .host .stepwise 0 }
def showReads : State := { hosting .showSync with hph := .readRun, copyPending := true, sched := [.host .stepwise 0] }

theorem inv_showReads : Inv showReads := by constructor <;> decide +kernel

/-- Issued at once in Running and stepwise in any run state; waiting, and testing RUNSTATE. -/
theorem witness_ShowGuaranteeHoldsUntilResponse :
    (Inv (hosting .showSync) ∧ (hosting .showSync).hop = some .showSync ∧ (hosting .showSync).hph = .issue ∧
      (hosting .showSync).copyPending = false ∧
      (turnGrain (hosting .showSync).turn = .atOnce → (hosting .showSync).runState = .running)) ∧
    (Inv showIssued ∧ (turnGrain showIssued.turn = .atOnce → showIssued.runState = .running)) ∧
    (ShowGuard showing ∧ (after (step showing) fun _ => true) = true) ∧
    (ShowGuard showReads ∧ (after (step showReads) fun t => t.hph == .poll) = true) :=
  ⟨⟨inv_show, rfl, rfl, rfl, fun _ => rfl⟩, ⟨by constructor <;> decide +kernel, nofun⟩,
    ⟨⟨inv_showing, rfl, .inr rfl, .inl ⟨rfl, trivial⟩⟩, by decide +kernel⟩,
    ⟨inv_showReads, rfl, .inl rfl, .inl ⟨rfl, trivial⟩⟩, by decide +kernel⟩

/-- CONTRASTS waits, and the pump is about to take its level. -/
def dimming : State :=
  { hosting (.contrastSync 255#8) with
    hph := .poll, creq := some 255#8, ph := 8#4, sf := 2, pph := .recompute 255#8, sched := [.pump .stepwise 0] }

theorem inv_dimming : Inv dimming := by constructor <;> decide +kernel
theorem inv_contrastSync : Inv (hosting (.contrastSync 0#8)) := by constructor <;> decide +kernel

/-- CONTRASTS at the stepwise grain, about to read RUNSTATE. -/
def dimReads : State :=
  { hosting (.contrastSync 0#8) with hph := .readRun, creq := some 0#8, sched := [.host .stepwise 0] }

theorem inv_dimReads : Inv dimReads := by constructor <;> decide +kernel

theorem witness_ContrastGuaranteeHoldsUntilResponse :
    (Inv (hosting (.contrastSync 0#8)) ∧ (hosting (.contrastSync 0#8)).hop = some (.contrastSync 0#8) ∧
      (hosting (.contrastSync 0#8)).hph = .issue ∧ (hosting (.contrastSync 0#8)).creq = none ∧
      (turnGrain (hosting (.contrastSync 0#8)).turn = .atOnce → (hosting (.contrastSync 0#8)).runState = .running)) ∧
    (ContrastGuard 255#8 dimming ∧ (after (step dimming) fun _ => true) = true) ∧
    (ContrastGuard 0#8 dimReads ∧ (after (step dimReads) fun t => t.hph == .poll) = true) :=
  ⟨⟨inv_contrastSync, rfl, rfl, rfl, fun _ => rfl⟩,
    ⟨⟨inv_dimming, rfl, .inr rfl, .inl ⟨rfl, fun l h => by cases h; rfl, nofun⟩⟩, by decide +kernel⟩,
    ⟨inv_dimReads, rfl, .inl rfl, .inl ⟨rfl, nofun, nofun⟩⟩, by decide +kernel⟩

/-- A step from a state of the invariant by each kind of turn. -/
theorem witness_EveryStepKeepsInvariant : Inv showing ∧ (after (step showing) fun _ => true) = true :=
  ⟨inv_showing, by decide +kernel⟩
theorem witness_NoStepFromInvariantStops : Inv base := inv_base

/-- START past the last `wait` of a bring-up. -/
def starting : State := { issuing with hph := .bring [.res true, .cmd 0xAF#8], sched := [.host .atOnce 0] }
/-- BRINGUP about to write Running. -/
def bringing : State :=
  { pumping 1#4 0 with runState := .starting, pph := .bring [], sched := [.pump .atOnce 0] }
/-- TEARDOWN issued in Running. -/
def stopping : State := { hosting .teardown with sched := [.host .atOnce 0] }
/-- The pump at SETSTOP while TEARDOWN waits. -/
def ending : State :=
  { hosting .teardown with hph := .poll, runState := .stopping, ph := 13#4, sched := [.pump .atOnce 0] }

/-- Each of the four transitions. -/
theorem witness_RunStateTransitionsHaveOneWriter :
    (Inv starting ∧ Inv bringing ∧ Inv stopping ∧ Inv ending) ∧
    ((after (step starting) fun t => t.runState == .running) = true ∧
      (after (step bringing) fun t => t.runState == .running) = true ∧
      (after (step stopping) fun t => t.runState == .stopping) = true ∧
      (after (step ending) fun t => t.runState == .stopped) = true) :=
  ⟨⟨by constructor <;> decide +kernel, by constructor <;> decide +kernel, by constructor <;> decide +kernel,
    by constructor <;> decide +kernel⟩, by decide +kernel⟩

/-- START with time left of a `wait`. -/
def waiting : State := { issuing with hph := .bring [], waitLeft := 1, sched := [.timebase 1] }

/-- Each deadline one microsecond before and at it; a `wait` about to begin, with 1 microsecond left, and changing both ways. -/
theorem witness_WaitsHoldUntilTheDeadline :
    (1784 < 1000 + base.cfg.tPreUs ∧ 1000 + base.cfg.tPreUs ≤ 1785) ∧
    (6493 < 1785 + base.cfg.tSubUs ∧ 1785 + base.cfg.tSubUs ≤ 6494) ∧
    ({ idle with hph := .bring [.wait 10] }.hph = .bring [.wait 10] ∧ idle.waitLeft = 0) ∧
    ({ idle with hph := .bring [], waitLeft := 1 }.hph = .bring [] ∧ { idle with waitLeft := 1 }.waitLeft ≠ 0) ∧
    { pumping 1#4 0 with pph := .bring [.wait 10] }.pph = .bring [.wait 10] ∧
    { pumping 1#4 0 with pph := .bring [], waitLeft := 1 }.pph = .bring [] ∧
    (sched base [.timebase 9, .timebase 1]).sched = [9, 1].map .timebase ++ [] ∧
    (Inv waiting ∧ (after (step waiting) fun t => t.waitLeft != waiting.waitLeft) = true) ∧
    (Inv { starting with hph := .issue } ∧
      (after (step { starting with hph := .issue }) fun t => t.waitLeft != (0 : Nat)) = true) := by
  refine ⟨?_, ?_, ⟨rfl, rfl⟩, ⟨rfl, ?_⟩, rfl, rfl, rfl, ⟨by constructor <;> decide +kernel, ?_⟩,
    by constructor <;> decide +kernel, ?_⟩ <;> decide +kernel

/-- Each kind of change: the stop branch of NEXT, and a wait at its deadline. -/
theorem witness_PhaseFollowsTheMicroProgram :
    Inv { ending with ph := 10#4, sf := 2 } ∧ Inv { showing with ph := 3#4, ts1 := 1000, now := 1785 } ∧
    (after (step { ending with ph := 10#4, sf := 2 }) fun t => t.ph == 11#4 && t.sf == 0) = true ∧
    (after (step { showing with ph := 3#4, ts1 := 1000, now := 1785 }) fun t => t.ph == 4#4) = true :=
  ⟨by constructor <;> decide +kernel, by constructor <;> decide +kernel, by decide +kernel⟩

/-- A turn of each agent. -/
theorem witness_AgentsKeepToTheirRights : Inv (sched base [.timebase 1]) ∧ Inv stopping ∧ Inv showing ∧
    (after (step (sched base [.timebase 1])) fun t => t.turn == .timebase 1) = true ∧
    (after (step stopping) fun t => t.turn == .host .atOnce 0) = true ∧
    (after (step showing) fun t => t.turn == .pump .atOnce 0) = true :=
  ⟨by constructor <;> decide +kernel, by constructor <;> decide +kernel, inv_showing, by decide +kernel⟩

/-- A step that sends from each agent, START's driving RES; and turns of an agent that does not own the bus. -/
theorem witness_BusIsOwnedByRunState : Inv starting ∧ Inv showing ∧ Inv stopping ∧
    Inv { starting with sched := [.pump .atOnce 0] } ∧ Inv { base with runState := .stopped, ph := 14#4 } ∧
    (after (step starting) fun t => t.busLog.length == 2) = true ∧
    (after (step showing) fun t => t.busLog.length == 4) = true ∧
    (after (step { bringing with pph := .bring [.res false] }) fun t => t.res != true) = true ∧
    stopping.runState = .running ∧ (after (step stopping) fun t => t.turn == .host .atOnce 0) = true ∧
    (after (step { starting with sched := [.pump .atOnce 0] }) fun t => t.turn == .pump .atOnce 0) = true :=
  ⟨by constructor <;> decide +kernel, inv_showing, by constructor <;> decide +kernel,
    by constructor <;> decide +kernel, by constructor <;> decide +kernel, by decide +kernel⟩
theorem witness_HistoryOnlyGrows : (after (step showing) fun _ => true) = true := by decide +kernel

/-- TIMEBASE's turn; a turn that reads `now`, PARK's; and one that does not, START's, which begins a `wait`. -/
theorem witness_NowIsTimebasesAndReadByFourOperations :
    (after (step (sched base [.timebase 1])) fun t => t.turn == .timebase 1) = true ∧
    (Inv showing ∧ ReadsNow showing ∧ (after (step showing) fun t => t.turn == .pump .atOnce 0) = true) ∧
    (¬ ReadsNow { starting with hph := .issue } ∧
      (after (step { starting with hph := .issue }) fun t => t.turn == .host .atOnce 0) = true) := by
  refine ⟨by decide +kernel, ⟨inv_showing, .inl ⟨showing.takeTurn, rfl⟩, by decide +kernel⟩, ?_, by decide +kernel⟩
  rintro (⟨u, h⟩ | ⟨u, h⟩ | ⟨u, h⟩ | ⟨u, h⟩) <;>
    · have := Fetched.run.inj (show Fetched.run .start { starting with hph := .issue, turn := .host .atOnce 0, sched := [] } =
        Fetched.run _ u from h)
      exact nomatch this.1

end Sys2Proof.Tests
end

section
/-! The decoder: what it reads back from an encoding, and which operations it can answer (R91 to R105). -/

namespace Sys2Proof

/-! ### The fields of each word format (R91) -/

section Fields
variable (op : BitVec 4) (sh : BitVec 2) (x y : BitVec 12) (v a b c d : Byte)

@[simp] theorem wordH0_fields :
    (wordH0 op).extractLsb' 28 4 = op ∧ (wordH0 op).extractLsb' 0 28 = 0#28 :=
  ⟨BitVec.extractLsb'_append_eq_left, BitVec.extractLsb'_append_eq_right⟩

@[simp] theorem wordHS_fields :
    (wordHS op sh).extractLsb' 28 4 = op ∧ (wordHS op sh).extractLsb' 2 26 = 0#26 ∧
      (wordHS op sh).extractLsb' 0 2 = sh := by
  simp (disch := decide) only [wordHS, BitVec.extractLsb'_append_eq_of_le,
    BitVec.extractLsb'_append_eq_of_add_le, Nat.reduceSub, BitVec.extractLsb'_eq_self, and_self]

@[simp] theorem wordHP_fields :
    (wordHP op x y sh).extractLsb' 28 4 = op ∧ (wordHP op x y sh).extractLsb' 16 12 = x ∧
      (wordHP op x y sh).extractLsb' 4 12 = y ∧ (wordHP op x y sh).extractLsb' 2 2 = 0#2 ∧
      (wordHP op x y sh).extractLsb' 0 2 = sh := by
  simp (disch := decide) only [wordHP, BitVec.extractLsb'_append_eq_of_le,
    BitVec.extractLsb'_append_eq_of_add_le, Nat.reduceSub, BitVec.extractLsb'_eq_self, and_self]

@[simp] theorem wordHL_fields :
    (wordHL op v).extractLsb' 28 4 = op ∧ (wordHL op v).extractLsb' 8 20 = 0#20 ∧
      (wordHL op v).extractLsb' 0 8 = v := by
  simp (disch := decide) only [wordHL, BitVec.extractLsb'_append_eq_of_le,
    BitVec.extractLsb'_append_eq_of_add_le, Nat.reduceSub, BitVec.extractLsb'_eq_self, and_self]

/-- A payload word holds its four bytes, byte 0 lowest (R99). -/
theorem unpackWord_append : unpackWord (d ++ c ++ b ++ a) = [a, b, c, d] := by
  simp (disch := decide) only [unpackWord, BitVec.extractLsb'_append_eq_of_le,
    BitVec.extractLsb'_append_eq_of_add_le, Nat.reduceSub, BitVec.extractLsb'_eq_self]

/-- The last payload word, with one to three of its high bytes unused, holds zeros there (R99). -/
theorem unpackWord_padded :
    unpackWord (0#24 ++ a) = [a, 0#8, 0#8, 0#8] ∧ unpackWord (0#16 ++ b ++ a) = [a, b, 0#8, 0#8] ∧
      unpackWord (0#8 ++ c ++ b ++ a) = [a, b, c, 0#8] :=
  ⟨unpackWord_append a 0#8 0#8 0#8, unpackWord_append a b 0#8 0#8, unpackWord_append a b c 0#8⟩

end Fields

/-! ### COMMAND's payload (R98, R99) -/

theorem packWords_length (bs : List Byte) : (packWords bs).length = payloadWords bs.length := by
  induction bs using packWords.induct with
  | case1 | case2 | case3 | case4 => simp [packWords, payloadWords]
  | case5 a b c d rest ih =>
    simp only [packWords, payloadWords, List.length_cons] at ih ⊢
    omega

/-- Unpacked, the payload words give the bytes back, with zero padding behind them. -/
theorem unpackWords_packWords (bs : List Byte) :
    ∃ n, unpackWords (packWords bs) = bs ++ List.replicate n 0#8 := by
  induction bs using packWords.induct with
  | case1 => exact ⟨0, rfl⟩
  | case2 a => exact ⟨3, by simp only [packWords, unpackWords, (unpackWord_padded a 0#8 0#8).1]; rfl⟩
  | case3 a b => exact ⟨2, by simp only [packWords, unpackWords, (unpackWord_padded a b 0#8).2.1]; rfl⟩
  | case4 a b c => exact ⟨1, by simp only [packWords, unpackWords, (unpackWord_padded a b c).2.2]; rfl⟩
  | case5 a b c d rest ih =>
    obtain ⟨n, hn⟩ := ih
    exact ⟨n, by simp only [packWords, unpackWords, unpackWord_append, hn]; rfl⟩

theorem decodeCommand_packWords (bs : List Byte) (rest : List HWord) :
    decodeCommand bs.length (packWords bs ++ rest) = .ok (.command bs) rest := by
  obtain ⟨n, hn⟩ := unpackWords_packWords bs
  simp [decodeCommand, ← packWords_length bs, hn]

/-! ### Decoding what was encoded -/

/-- The decoder reads a well-formed host operation back from its words, and leaves the words behind them (R91, R98). -/
theorem decodeHost_encode {i : Instr} {ws : List HWord} (hwf : i.wf = true) (he : encode i = .host ws)
    (rest : List HWord) : decodeHost (ws ++ rest) = .ok i rest := by
  cases i <;> simp only [encode, reduceCtorEq, Code.host.injEq] at he <;> subst he
  case command bytes =>
    have hlen : bytes.length ≤ 255 := by simpa [Instr.wf] using hwf
    have hn : (BitVec.ofNat 8 bytes.length).toNat = bytes.length := by
      rw [BitVec.toNat_ofNat]
      omega
    simp [decodeHost, hn, decodeCommand_packWords, -BitVec.toNat_ofNat]
  all_goals simp [decodeHost, orReserved]

theorem decodePhase_encode {i : Instr} {p : BitVec 4} (he : encode i = .phase p) : decodePhase p = some i := by
  cases i <;> simp only [encode, reduceCtorEq, Code.phase.injEq] at he <;> subst he <;> rfl

theorem decodeFrame_frameBits (dc : Bool) (b : Byte) :
    decodeFrame (frameBits dc b) = if dc then .txd b else .txc b := by
  have hdc : (frameBits dc b).extractLsb' 8 1 = BitVec.ofBool dc := BitVec.extractLsb'_append_eq_left
  have hb : (frameBits dc b).extractLsb' 0 8 = b := BitVec.extractLsb'_append_eq_right
  cases dc <;> simp [decodeFrame, hdc, hb]

theorem decodeFrame_encode {i : Instr} {f : Frame} (he : encode i = .frame f) : decodeFrame f = i := by
  cases i <;> simp only [encode, reduceCtorEq, Code.frame.injEq] at he <;> subst he <;>
    simp [decodeFrame_frameBits]

/-! ### What the decoder can answer -/

/-- The bit of DC of a frame, as it was put there (R105). -/
theorem frameBits_dc (dc : Bool) (b : Byte) : (frameBits dc b).getLsbD 8 = dc := by
  rw [frameBits, BitVec.getLsbD_append]
  simp

/-- A frame is a command byte's or a display-memory byte's, by its DC bit (R105). -/
theorem decodeFrame_cases (f : Frame) :
    (f.getLsbD 8 = false ∧ decodeFrame f = .txc (f.extractLsb' 0 8)) ∨
      (f.getLsbD 8 = true ∧ decodeFrame f = .txd (f.extractLsb' 0 8)) := by
  have hbit : f.extractLsb' 8 1 = BitVec.ofBool (f.getLsbD 8) := by
    ext i hi
    simp [show i = 0 by omega]
  unfold decodeFrame
  rw [hbit]
  cases f.getLsbD 8 <;> simp

/-- The micro-operation PH names is the one its code encodes (R103). -/
theorem encode_of_decodePhase {p : BitVec 4} {i : Instr} (h : decodePhase p = some i) : encode i = .phase p := by
  have codes : ∀ p : BitVec 4, (decodePhase p).all (fun i => encode i = .phase p) = true := by decide
  simpa [h] using codes p

theorem orReserved_ok {zero : Bool} {i j : Instr} {ws rest : List HWord} (h : orReserved zero j ws = .ok i rest) :
    i = j := by
  unfold orReserved at h
  split at h <;> cases h
  rfl

theorem decodeCommand_ok {n : Nat} {i : Instr} {ws rest : List HWord} (h : decodeCommand n ws = .ok i rest) :
    ∃ bytes, i = .command bytes ∧ bytes.length ≤ n := by
  unfold decodeCommand at h
  split at h
  · cases h
  · dsimp only at h
    split at h <;> cases h
    exact ⟨_, rfl, List.length_take_le _ _⟩

/-- What the host decoder answers is a well-formed operation of the host layer (R91, R98). -/
theorem decodeHost_ok {ws rest : List HWord} {i : Instr} (h : decodeHost ws = .ok i rest) :
    i.layer = .host ∧ i.wf = true := by
  unfold decodeHost at h
  split at h
  · cases h
  next w ws =>
  split at h
  case h_9 =>
    split at h
    · obtain ⟨bytes, rfl, hlen⟩ := decodeCommand_ok h
      have hn := (w.extractLsb' 0 8).isLt
      exact ⟨rfl, decide_eq_true (show bytes.length ≤ 255 by omega)⟩
    · cases h
  case h_11 => cases h
  all_goals exact orReserved_ok h ▸ ⟨rfl, rfl⟩

end Sys2Proof
end

section
/-! What one turn can do: everything a host operation, a micro-operation and a bus primitive can answer, in one relation
each, and what a turn fetches. The proofs about steps go by cases on these relations. -/

namespace Sys2Proof.Machine

/-! ### Bring-up (R194) -/

/-- The events a bring-up may log: `res`, and command bytes of its agent (R194). -/
def BusEvent.ofBringUp (who : Agent) (e : BusEvent) : Prop :=
  (∃ level, e = .res level) ∨ ∃ b, e = .byte false b who

/-- What a turn of a bring-up from `s` to `u` keeps to, with the items `o` owed after it, or none when it is done: it
writes the bus, its agent's pending frames and the time left of a `wait`; it logs its own events; and when it is done it
leaves no frame and no `wait` behind. -/
structure Brings (who : Agent) (s u : State) (o : Option (List BringItem)) : Prop where
  frame : u = { s with
    sdo := u.sdo, sck := u.sck, dc := u.dc, cs := u.cs, res := u.res, busLog := u.busLog
    waitLeft := u.waitLeft, hostTx := u.hostTx, pumpTx := u.pumpTx }
  log : ∃ sent, u.busLog = s.busLog ++ sent ∧ ∀ e ∈ sent, e.ofBringUp who
  hostTx : ∃ fs, u.hostTx = s.hostTx ++ fs ∧ (∀ f ∈ fs, f.getLsbD 8 = false) ∧ (who = .pump → fs = [])
  pumpTx : ∃ fs, u.pumpTx = s.pumpTx ++ fs ∧ (who = .host → fs = [])
  done : o = none → u.waitLeft = s.waitLeft ∧ u.hostTx = s.hostTx ∧ u.pumpTx = s.pumpTx

section Bring
variable {who : Agent} {s u v : State} {o : Option (List BringItem)}

/-- A bring-up that first sends one event of its own and then keeps to `Brings` keeps to it as a whole. -/
theorem Brings.of_sent {e : BusEvent} (he : e.ofBringUp who)
    (hu : u = { s with
      sdo := u.sdo, sck := u.sck, dc := u.dc, cs := u.cs, res := u.res, busLog := s.busLog ++ [e] })
    (h : Brings who u v o) : Brings who s v o := by
  obtain ⟨frame, ⟨sent, hlog, hsent⟩, hostTx, pumpTx, done⟩ := h
  rw [hu] at frame hlog hostTx pumpTx done
  refine ⟨frame, ⟨e :: sent, by simpa using hlog, ?_⟩, hostTx, pumpTx, done⟩
  simpa using ⟨he, hsent⟩

theorem brings_bringUp (items : List BringItem) :
    Brings who s (s.bringUp who items).1 (s.bringUp who items).2 := by
  induction items generalizing s with
  | nil => exact ⟨rfl, ⟨[], by simp⟩, ⟨[], by simp⟩, ⟨[], by simp⟩, fun _ => ⟨rfl, rfl, rfl⟩⟩
  | cons item rest ih =>
    cases item with
    | res level => exact .of_sent (u := s.driveRes level) (.inl ⟨level, rfl⟩) rfl ih
    | wait us => exact ⟨rfl, ⟨[], by simp⟩, ⟨[], by simp⟩, ⟨[], by simp⟩, nofun⟩
    | cmd b => exact .of_sent (u := s.txc [b] who) (.inr ⟨b, rfl⟩) rfl ih

theorem brings_bringItem (items : List BringItem) :
    Brings who s (s.bringItem who items).1 (s.bringItem who items).2 := by
  rcases bringItem_cases s who items with ⟨_, e⟩ | ⟨level, rest, _, e⟩ | ⟨us, rest, _, e⟩ | ⟨b, rest, _, e⟩ <;> rw [e]
  · exact brings_bringUp []
  · exact ⟨rfl, ⟨[.res level], rfl, by simp [BusEvent.ofBringUp]⟩, ⟨[], by simp⟩, ⟨[], by simp⟩, nofun⟩
  · exact brings_bringUp (.wait us :: rest)
  · cases who
    · exact ⟨rfl, ⟨[], by simp⟩, ⟨[frameBits false b], rfl, by simpa using frameBits_dc false b, nofun⟩,
        ⟨[], by simp⟩, nofun⟩
    · exact ⟨rfl, ⟨[], by simp⟩, ⟨[], by simp⟩, ⟨[frameBits false b], rfl, nofun⟩, nofun⟩

theorem brings_bringTurn (items : List BringItem) :
    Brings who s (s.bringTurn who items).1 (s.bringTurn who items).2 := by
  unfold State.bringTurn
  split
  · exact brings_bringUp items
  · exact brings_bringItem items

theorem Brings.logical (h : Brings who s u o) : SameLogical s u :=
  ⟨(congrArg State.la h.frame :), (congrArg State.lb h.frame :)⟩

theorem Brings.derived (h : Brings who s u o) : SameDerived s u :=
  ⟨(congrArg State.dp0 h.frame :), (congrArg State.dp1 h.frame :), (congrArg State.dp2 h.frame :)⟩

theorem Brings.cells (h : Brings who s u o) : SameCells s u :=
  ⟨(congrArg State.runState h.frame :), (congrArg State.copyPending h.frame :), (congrArg State.pendingCmd h.frame :),
    (congrArg State.creq h.frame :)⟩

theorem Brings.registers (h : Brings who s u o) : SameRegisters s u :=
  ⟨(congrArg State.cadj h.frame :), (congrArg State.cmdq h.frame :), (congrArg State.cmdqLen h.frame :)⟩

theorem Brings.stamps (h : Brings who s u o) : SameStamps s u :=
  ⟨(congrArg State.ts1 h.frame :), (congrArg State.ts3 h.frame :)⟩

theorem Brings.place (h : Brings who s u o) : SamePlace s u :=
  ⟨(congrArg State.ph h.frame :), (congrArg State.sf h.frame :), (congrArg State.pph h.frame :)⟩

theorem Brings.port (h : Brings who s u o) : SamePort s u :=
  ⟨(congrArg State.hop h.frame :), (congrArg State.hph h.frame :), (congrArg State.responses h.frame :)⟩

theorem Brings.cfg (h : Brings who s u o) : u.cfg = s.cfg := (congrArg State.cfg h.frame :)

/-- A bring-up hands no frame to the other agent's burst. -/
theorem Brings.otherTx (h : Brings who s u o) :
    (who = .pump → u.hostTx = s.hostTx) ∧ (who = .host → u.pumpTx = s.pumpTx) := by
  obtain ⟨fs, hfs, _, hnil⟩ := h.hostTx
  obtain ⟨gs, hgs, hnil'⟩ := h.pumpTx
  exact ⟨fun hw => by simpa [hnil hw] using hfs, fun hw => by simpa [hnil' hw] using hgs⟩

end Bring

/-! ### Host operations -/

/-- The operations that paint the logical planes. -/
def Paints : Instr → Prop
  | .fill _ | .pixel _ _ _ => True
  | _ => False

/-- The operations that may wait until the pump has served their request (R143, R147). -/
def WaitsForPump : Instr → Prop
  | .showSync | .contrastSync _ => True
  | _ => False

/-- The request an operation writes at its issue (R143, R145, R146, R147). -/
inductive HostAsks (s : State) : Instr → State → Prop
  | show : HostAsks s .showSync s.setCopy
  | showAsync : HostAsks s .showAsync s.setCopy
  | contrast (lvl : Byte) : HostAsks s (.contrast lvl) (s.setCreq lvl)
  | contrastSync (lvl : Byte) : HostAsks s (.contrastSync lvl) (s.setCreq lvl)

/-- The places of its own at which a host operation goes on in a turn that writes nothing else. -/
inductive HostGoes (s : State) : Instr → HostPhase → Prop
  | fill {sh : BitVec 2} (here : s.hph = .issue) : HostGoes s (.fill sh) (.writes (fillActs sh))
  | pixel {x y : BitVec 12} {sh : BitVec 2} (here : s.hph = .issue)
      (hon : onScreen (coordinate x) (coordinate y) = true) :
      HostGoes s (.pixel x y sh) (.writes (pixelActs (coordinate x).toNat (coordinate y).toNat sh))
  | paint {i : Instr} {todo : List PlaneAct} {k : Nat} {p : LogicalPlane} {j : Nat} {mask v : Byte} {on : Bool}
      (hi : Paints i) (here : s.hph = .writes todo) (hk : todo[k]? = some (.change p j mask on)) :
      HostGoes s i (.writes (todo.set k (.put p j v)))
  | poll {i : Instr} (hi : WaitsForPump i) (here : s.hph = .readRun) (hrun : s.runState = .running) : HostGoes s i .poll
  | bring (here : s.hph = .issue) (hstrap : s.cfg.startMode = .delayed) (hrun : s.runState = .waiting) :
      HostGoes s .start (.bring s.cfg.bringupSeq)
  | awaitRunning (here : s.hph = .issue) (hrun : s.runState = .starting) : HostGoes s .teardown .awaitRunning
  | stop (here : s.hph = .issue ∨ s.hph = .awaitRunning) (hrun : s.runState = .running) : HostGoes s .teardown .stop
  | restore (here : s.hph = .poll) (hrun : s.runState = .stopped) : HostGoes s .teardown .restore
  | queue {bytes : List Byte} (here : s.hph = .issue) (hlen : lengthOk s.cfg bytes = true)
      (hfree : s.pendingCmd = false) : HostGoes s (.command bytes) .queue
  | stat1 (here : s.hph = .issue) : HostGoes s .rdstat (.stat1 s.runState)
  | stat2 {r : RunState} (here : s.hph = .stat1 r) : HostGoes s .rdstat (.stat2 r s.copyPending)
  | stat3 {r : RunState} {c : Bool} (here : s.hph = .stat2 r c) : HostGoes s .rdstat (.stat3 r c s.pendingCmd)

/-- START is at its issue in Waiting with the Delayed strap, or in its bring-up with no `wait` under way (R141). -/
def StartBrings (s : State) : Prop :=
  (s.hph = .issue ∧ s.cfg.startMode = .delayed ∧ s.runState = .waiting) ∨
    ((∃ items, s.hph = .bring items) ∧ s.waitLeft = 0)

/-- Everything a host operation can do in one turn, at either grain. -/
inductive HostMove (s : State) : Instr → State → Prop
  /-- It waits. -/
  | stays {i : Instr} : HostMove s i s
  | goes {i : Instr} {p : HostPhase} (h : HostGoes s i p) : HostMove s i (s.hostAt p)
  /-- It responds and writes nothing; not out of a bring-up, and not out of TEARDOWN's wait for Stopped. -/
  | responds {i : Instr} (r : Response) (hbring : s.hph.brings = false) (hpoll : i = .teardown → s.hph ≠ .poll) :
      HostMove s i (s.respond r)
  | fills {sh : BitVec 2} (here : s.hph = .issue) : HostMove s (.fill sh) ((s.fillPlanes sh).respond .done)
  | plots {x y : BitVec 12} {sh : BitVec 2} (here : s.hph = .issue)
      (hon : onScreen (coordinate x) (coordinate y) = true) :
      HostMove s (.pixel x y sh) ((s.plotPixel (coordinate x).toNat (coordinate y).toNat sh).respond .done)
  /-- One byte of a logical plane is written; with none left it responds. -/
  | puts {i : Instr} {todo : List PlaneAct} {k : Nat} {p : LogicalPlane} {j : Nat} {v : Byte} (hi : Paints i)
      (here : s.hph = .writes todo) (hk : todo[k]? = some (.put p j v)) :
      HostMove s i ((s.putLogical p j v).oweWrites (todo.eraseIdx k))
  | asksAndResponds {i : Instr} {u : State} (h : HostAsks s i u) (here : s.hph = .issue) : HostMove s i (u.respond .done)
  | asksAndReads {i : Instr} {u : State} (h : HostAsks s i u) (hi : WaitsForPump i) (here : s.hph = .issue) :
      HostMove s i (u.hostAt .readRun)
  | asksAndPolls {i : Instr} {u : State} (h : HostAsks s i u) (hi : WaitsForPump i) (here : s.hph = .issue)
      (hrun : s.runState = .running) : HostMove s i (u.hostAt .poll)
  | brings {u : State} {items : List BringItem} (h : Brings .host s u (some items)) (here : StartBrings s) :
      HostMove s .start (u.hostAt (.bring items))
  | releases {u : State} (h : Brings .host s u none) (here : StartBrings s) : HostMove s .start u.release
  | stops (here : (s.hph = .issue ∧ s.runState = .running) ∨ s.hph = .stop) : HostMove s .teardown s.requestStop
  | restoresAtOnce (here : s.hph = .restore) : HostMove s .teardown ((s.txc s.cfg.restoreSeq .host).respond .done)
  | restores (here : s.hph = .restore) :
      HostMove s .teardown ((s.enqueue .host (framesOf false s.cfg.restoreSeq)).hostAt .finish)
  | queuesAtOnce {bytes : List Byte} (here : s.hph = .issue) (hlen : lengthOk s.cfg bytes = true)
      (hfree : s.pendingCmd = false) : HostMove s (.command bytes) ((s.writeQueue bytes).setCmd.respond .done)
  | queues {bytes : List Byte} (here : s.hph = .queue) :
      HostMove s (.command bytes) ((s.writeQueue bytes).hostAt .setFlag)
  | flags {bytes : List Byte} (here : s.hph = .setFlag) : HostMove s (.command bytes) (s.setCmd.respond .done)

section HostOps
variable {s t : State}

/-- A turn of FILL or PIXEL with plane accesses owed (R69). -/
theorem writeStep_moves {i : Instr} {todo : List PlaneAct} (hi : Paints i) (here : s.hph = .writes todo)
    (h : s.writeStep todo = .next t) : HostMove s i t := by
  rcases writeStep_cases h with ⟨_, rfl⟩ | ⟨p, j, v, hk, rfl⟩ | ⟨p, j, mask, on, hk, _, rfl⟩
  · exact .responds .done (by rw [here]; rfl) (by rw [here]; exact nofun)
  · exact .puts hi here hk
  · rw [oweWrites_of_ne]
    · exact .goes (.paint hi here hk)
    · intro hnil
      have hempty : todo = [] := by simpa using hnil
      simp [hempty] at hk

theorem execFill_moves {sh : BitVec 2} (h : execFill sh s = .next t) : HostMove s (.fill sh) t := by
  unfold execFill at h
  split at h
  next here =>
    split at h <;> cases h
    · exact .fills here
    · exact oweWrites_of_ne (s := s) (todo := fillActs sh) (by simp [fillActs]) ▸ .goes (.fill here)
  next todo here => exact writeStep_moves trivial here h
  next => cases h

theorem execPixel_moves {x y : BitVec 12} {sh : BitVec 2} (h : execPixel x y sh s = .next t) :
    HostMove s (.pixel x y sh) t := by
  unfold execPixel at h
  split at h
  next here =>
    split at h
    next hon =>
      split at h
      · split at h <;> cases h
        exact .plots here hon
      · cases h
        exact .goes (.pixel here hon)
    next =>
      cases h
      exact .responds .done (by rw [here]; rfl) nofun
  next todo here => exact writeStep_moves trivial here h
  next => cases h

/-- A request that is followed by the test of RUNSTATE in the same turn (R143, R147). -/
theorem testRunning_moves {i : Instr} {u : State} (hu : HostAsks s i u) (hi : WaitsForPump i) (here : s.hph = .issue) :
    HostMove s i u.testRunning := by
  have hrun : u.runState = s.runState := by cases hu <;> rfl
  unfold State.testRunning
  split
  · exact .asksAndPolls hu hi here (by rwa [← hrun])
  · exact .asksAndResponds hu here

theorem readRun_moves {i : Instr} (hi : WaitsForPump i) (here : s.hph = .readRun) : HostMove s i s.testRunning := by
  unfold State.testRunning
  split
  · exact .goes (.poll hi here ‹_›)
  · exact .responds .done (by rw [here]; rfl) (by rw [here]; exact nofun)

theorem pollServed_moves {i : Instr} (hi : WaitsForPump i) (here : s.hph = .poll) (served : Bool) :
    HostMove s i (s.pollServed served) := by
  unfold State.pollServed
  split
  · exact .responds .done (by rw [here]; rfl) (by rintro rfl; exact hi.elim)
  · exact .stays

theorem execShowSync_moves (h : execShowSync s = .next t) : HostMove s .showSync t := by
  unfold execShowSync at h
  split at h
  next here =>
    split at h <;> cases h
    · exact testRunning_moves .show trivial here
    · exact .asksAndReads .show trivial here
  next here => cases h; exact readRun_moves trivial here
  next here => cases h; exact pollServed_moves (i := .showSync) trivial here _
  next => cases h

theorem execShowAsync_moves (h : execShowAsync s = .next t) : HostMove s .showAsync t := by
  unfold execShowAsync at h
  split at h <;> cases h
  exact .asksAndResponds .showAsync ‹_›

theorem execContrast_moves {lvl : Byte} (h : execContrast lvl s = .next t) : HostMove s (.contrast lvl) t := by
  unfold execContrast at h
  split at h <;> cases h
  exact .asksAndResponds (.contrast lvl) ‹_›

theorem execContrastSync_moves {lvl : Byte} (h : execContrastSync lvl s = .next t) :
    HostMove s (.contrastSync lvl) t := by
  unfold execContrastSync at h
  split at h
  next here =>
    split at h <;> cases h
    · exact testRunning_moves (.contrastSync lvl) trivial here
    · exact .asksAndReads (.contrastSync lvl) trivial here
  next here => cases h; exact readRun_moves trivial here
  next here => cases h; exact pollServed_moves (i := .contrastSync lvl) trivial here _
  next => cases h

theorem startOwes_moves {r : State × Option (List BringItem)} (h : Brings .host s r.1 r.2) (here : StartBrings s) :
    HostMove s .start (State.startOwes r) := by
  obtain ⟨u, _ | items⟩ := r
  · exact .releases h here
  · exact .brings h here

theorem execStart_moves (h : execStart s = .next t) : HostMove s .start t := by
  unfold execStart at h
  split at h
  next here =>
    split at h
    next hw =>
      split at h <;> cases h
      · exact startOwes_moves (brings_bringUp _) (.inl ⟨here, hw⟩)
      · exact .goes (.bring here hw.1 hw.2)
    next =>
      cases h
      exact .responds .done (by rw [here]; rfl) nofun
  next items here =>
    cases h
    split
    · exact startOwes_moves (brings_bringTurn items) (.inr ⟨⟨items, here⟩, ‹_›⟩)
    · exact .stays
  next => cases h

theorem execTeardown_moves (h : execTeardown s = .next t) : HostMove s .teardown t := by
  unfold execTeardown at h
  split at h
  next here =>
    split at h
    next => cases h; exact .responds .done (by rw [here]; rfl) (by rw [here]; exact nofun)
    next => cases h; exact .responds (.err .state) (by rw [here]; rfl) (by rw [here]; exact nofun)
    next hrun => cases h; exact .goes (.awaitRunning here hrun)
    next hrun =>
      split at h <;> cases h
      · exact .stops (.inl ⟨here, hrun⟩)
      · exact .goes (.stop (.inl here) hrun)
    next => cases h
  next here =>
    cases h
    split
    · exact .goes (.stop (.inr here) ‹_›)
    · exact .stays
  next here => cases h; exact .stops (.inr here)
  next here =>
    cases h
    split
    · exact .goes (.restore here ‹_›)
    · exact .stays
  next here =>
    split at h <;> cases h
    · exact .restoresAtOnce here
    · exact .restores here
  next here => cases h; exact .responds .done (by rw [here]; rfl) (by rw [here]; exact nofun)
  next => cases h

theorem execCommand_moves {bytes : List Byte} (h : execCommand bytes s = .next t) : HostMove s (.command bytes) t := by
  unfold execCommand at h
  split at h
  next here =>
    split at h
    next hlen =>
      split at h
      next => cases h; exact .responds (.err .busy) (by rw [here]; rfl) nofun
      next hfree =>
        rw [Bool.not_eq_true] at hfree
        split at h <;> cases h
        · exact .queuesAtOnce here hlen hfree
        · exact .goes (.queue here hlen hfree)
    next => cases h; exact .responds (.err .len) (by rw [here]; rfl) nofun
  next here => cases h; exact .queues here
  next here => cases h; exact .flags here
  next => cases h

theorem execRdstat_moves (h : execRdstat s = .next t) : HostMove s .rdstat t := by
  unfold execRdstat at h
  split at h
  next here =>
    split at h <;> cases h
    · exact .responds _ (by rw [here]; rfl) nofun
    · exact .goes (.stat1 here)
  next here => cases h; exact .goes (.stat2 here)
  next here => cases h; exact .goes (.stat3 here)
  next here => cases h; exact .responds _ (by rw [here]; rfl) nofun
  next => cases h

/-- Everything a host operation can do. -/
theorem exec_host_moves {i : Instr} (hi : i.layer = .host) (h : exec i s = .next t) : HostMove s i t := by
  cases i with
  | fill => exact execFill_moves h
  | pixel => exact execPixel_moves h
  | showSync => exact execShowSync_moves h
  | showAsync => exact execShowAsync_moves h
  | contrast => exact execContrast_moves h
  | contrastSync => exact execContrastSync_moves h
  | start => exact execStart_moves h
  | teardown => exact execTeardown_moves h
  | command => exact execCommand_moves h
  | rdstat => exact execRdstat_moves h
  | _ => cases hi

end HostOps
end Sys2Proof.Machine
end

section
/-! Everything a micro-operation of the pump, a bus primitive and a whole turn can do. -/

namespace Sys2Proof.Machine

/-! ### Micro-operations -/

/-- The micro-operations that send bursts: the state with their stamp taken, and their successor (R163, R165 to R168,
R173). -/
inductive PumpSends (s : State) : Instr → State → BitVec 4 → Prop
  | park : PumpSends s .park { s with ts1 := s.now } Ph.waitpre
  | txplane : PumpSends s .txplane { s with ts3 := s.now } Ph.cadj1
  | cadj1 : PumpSends s .cadj1 s Ph.resume
  | resume : PumpSends s .resume s Ph.cadj2
  | cadj2 : PumpSends s .cadj2 s Ph.maint
  | txfinal : PumpSends s .txfinal s Ph.setstop

/-- Everything MAINT can do in one turn (R169). -/
inductive MaintMove (s : State) : State → Prop
  /-- There is nothing to serve, or nothing left to serve. -/
  | passes (here : (s.pph = .start ∧ s.sf ≠ 2) ∨ (s.copyPending = false ∧ s.creq = none ∧ s.pendingCmd = false) ∨
      (s.pph = .readCmd ∧ s.pendingCmd = false)) : MaintMove s (s.goto Ph.waitsub)
  | copyAtOnce (here : s.pph = .start) (hsf : s.sf = 2) (hreq : s.copyPending = true) :
      MaintMove s (s.composeAll.clearCopy.goto Ph.waitsub)
  | creqAtOnce {lvl : Byte} {c : Cadj} (here : s.pph = .start) (hsf : s.sf = 2) (hfree : s.copyPending = false)
      (hreq : s.creq = some lvl) (hc : contrastAt s.cfg lvl = some c) :
      MaintMove s ((s.recomputed c).clearCreq.goto Ph.waitsub)
  | cmdAtOnce (here : s.pph = .start) (hsf : s.sf = 2) (hfree : s.copyPending = false ∧ s.creq = none)
      (hreq : s.pendingCmd = true) : MaintMove s ((s.txc s.queuedBytes .pump).clearCmd.goto Ph.waitsub)
  | composes (here : s.pph = .start) (hsf : s.sf = 2) (hreq : s.copyPending = true) :
      MaintMove s (s.pumpAt (.compose composeItems))
  /-- COMPOSE reads one byte, and the index still has the other to read. -/
  | composeReads {todo : List ComposeItem} {k : Nat} {it it' : ComposeItem} (here : s.pph = .compose todo)
      (hk : todo[k]? = some it) (hidx : it'.idx = it.idx) : MaintMove s (s.pumpAt (.compose (todo.set k it')))
  | composePuts {todo : List ComposeItem} {k : Nat} {it : ComposeItem} {a b : Byte} (here : s.pph = .compose todo)
      (hk : todo[k]? = some it) : MaintMove s ((s.putDerived it.idx a b).oweCompose (todo.eraseIdx k))
  | composed {todo : List ComposeItem} (here : s.pph = .compose todo) : MaintMove s (s.pumpAt .clearCopy)
  | copyServed (here : s.pph = .clearCopy) : MaintMove s (s.clearCopy.goto Ph.waitsub)
  | looksAtCreq (here : s.pph = .start) (hsf : s.sf = 2) (hfree : s.copyPending = false) :
      MaintMove s (s.pumpAt .readCreq)
  | takesCreq {lvl : Byte} (here : s.pph = .readCreq) (hreq : s.creq = some lvl) :
      MaintMove s (s.pumpAt (.recompute lvl))
  | recomputes {lvl : Byte} {c : Cadj} (here : s.pph = .recompute lvl) (hc : contrastAt s.cfg lvl = some c) :
      MaintMove s ((s.recomputed c).pumpAt .clearCreq)
  | creqServed (here : s.pph = .clearCreq) : MaintMove s (s.clearCreq.goto Ph.waitsub)
  | looksAtCmd (here : s.pph = .readCreq) (hfree : s.creq = none) : MaintMove s (s.pumpAt .readCmd)
  | takesCmd (here : s.pph = .readCmd) (hreq : s.pendingCmd = true) :
      MaintMove s ((s.enqueue .pump (framesOf false s.queuedBytes)).pumpAt .clearCmd)
  | cmdServed (here : s.pph = .clearCmd) : MaintMove s (s.clearCmd.goto Ph.waitsub)

/-- BRINGUP is at its beginning, or in its bring-up with no `wait` under way (R162). -/
def BringupBrings (s : State) : Prop := s.pph = .start ∨ ((∃ items, s.pph = .bring items) ∧ s.waitLeft = 0)

/-- Everything a micro-operation of the pump can do in one turn, at either grain. -/
inductive PumpMove (s : State) : Instr → State → Prop
  /-- A wait before its deadline, a `wait` item under way, HALT. -/
  | stays {i : Instr} : PumpMove s i s
  | idles (hrun : s.runState = .waiting) : PumpMove s .idle (s.goto Ph.idle)
  | enters (hrun : s.runState ≠ .waiting) : PumpMove s .idle s.enterLoop
  | bringBegins (here : s.pph = .start) : PumpMove s .bringup (s.pumpAt (.bring s.cfg.bringupSeq))
  | brings {u : State} {items : List BringItem} (h : Brings .pump s u (some items)) (here : BringupBrings s) :
      PumpMove s .bringup (u.pumpAt (.bring items))
  | bringEnds {u : State} (h : Brings .pump s u none) (here : BringupBrings s) : PumpMove s .bringup u.broughtUp
  | sendsAtOnce {i : Instr} {u : State} {p : BitVec 4} (h : PumpSends s i u p) (here : s.pph = .start)
      (cmds datas : List Byte) : PumpMove s i (((u.txc cmds .pump).txd datas .pump).goto p)
  | sends {i : Instr} {u : State} {p : BitVec 4} (h : PumpSends s i u p) (here : s.pph = .start) (fs : List Frame) :
      PumpMove s i ((u.enqueue .pump fs).pumpAt .sent)
  | sent {i : Instr} {u : State} {p : BitVec 4} (h : PumpSends s i u p) (here : s.pph = .sent) : PumpMove s i (s.goto p)
  | preOver (hdue : s.ts1 + s.cfg.tPreUs ≤ s.now) : PumpMove s .waitpre (s.goto Ph.txplane)
  | subOver (hdue : s.ts3 + s.cfg.tSubUs ≤ s.now) : PumpMove s .waitsub (s.goto Ph.next)
  | maint {t : State} (h : MaintMove s t) : PumpMove s .maint t
  | nextSubframe (hsf : s.sf ≠ 2) : PumpMove s .next ({ s with sf := s.sf + 1 }.goto Ph.park)
  | nextCycle (hsf : s.sf = 2) :
      PumpMove s .next ({ s with sf := 0 }.goto (if s.runState = RunState.stopping then Ph.blank else Ph.park))
  | blanks : PumpMove s .blank ({ s with dp0 := Memory.ofFn fun _ => 0x00#8 }.goto Ph.txfinal)
  | halts : PumpMove s .setstop ({ s with runState := .stopped }.goto Ph.halt)

section PumpOps
variable {s t : State}

/-- Sending command bytes alone is sending them with no display-memory bytes behind (R191, R192). -/
theorem sendThenGoto_moves {i : Instr} {u : State} {bytes : List Byte} {p : BitVec 4} (hs : PumpSends s i u p)
    (h : (s.pph = .start ∧ u.sendThenGoto bytes p = .next t) ∨ (s.pph ≠ .start ∧ s.sendThenGoto bytes p = .next t)) :
    PumpMove s i t := by
  rcases h with ⟨here, h⟩ | ⟨hne, h⟩
  · have hu : u.pph = .start := by cases hs <;> exact here
    rcases sendThenGoto_cases h with ⟨_, _, rfl⟩ | ⟨_, _, rfl⟩ | ⟨hsent, _⟩
    · exact .sendsAtOnce hs here bytes []
    · exact .sends hs here _
    · rw [hu] at hsent; cases hsent
  · rcases sendThenGoto_cases h with ⟨here, _⟩ | ⟨here, _⟩ | ⟨hsent, rfl⟩
    · exact absurd here hne
    · exact absurd here hne
    · exact .sent hs hsent

/-- An operation without a stamp sends from the state as it is. -/
theorem sendThenGoto_moves_of_unstamped {i : Instr} {bytes : List Byte} {p : BitVec 4} (hs : PumpSends s i s p)
    (h : s.sendThenGoto bytes p = .next t) : PumpMove s i t := by
  by_cases here : s.pph = .start
  · exact sendThenGoto_moves hs (.inl ⟨here, h⟩)
  · exact sendThenGoto_moves hs (.inr ⟨here, h⟩)

theorem sendPlane_moves {i : Instr} {u : State} {m : Memory} {p : BitVec 4} (hs : PumpSends s i u p)
    (here : s.pph = .start) (h : u.sendPlane m p = .next t) : PumpMove s i t := by
  obtain ⟨_, ⟨_, rfl⟩ | ⟨_, rfl⟩⟩ := sendPlane_cases h
  · exact .sendsAtOnce hs here _ _
  · exact .sends hs here _

theorem execIdle_moves (h : execIdle s = .next t) : PumpMove s .idle t := by
  unfold execIdle at h
  cases h
  split
  · exact .idles ‹_›
  · exact .enters ‹_›

theorem bringupOwes_moves {r : State × Option (List BringItem)} (h : Brings .pump s r.1 r.2) (here : BringupBrings s) :
    PumpMove s .bringup (State.bringupOwes r) := by
  obtain ⟨u, _ | items⟩ := r
  · exact .bringEnds h here
  · exact .brings h here

theorem execBringup_moves (h : execBringup s = .next t) : PumpMove s .bringup t := by
  unfold execBringup at h
  split at h
  next here =>
    split at h <;> cases h
    · exact bringupOwes_moves (brings_bringUp _) (.inl here)
    · exact .bringBegins here
  next items here =>
    cases h
    split
    · exact bringupOwes_moves (brings_bringTurn items) (.inr ⟨⟨items, here⟩, ‹_›⟩)
    · exact .stays
  next => cases h

theorem execPark_moves (h : execPark s = .next t) : PumpMove s .park t := by
  unfold execPark at h
  split at h
  · exact sendThenGoto_moves .park (.inl ⟨‹_›, h⟩)
  · exact sendThenGoto_moves .park (.inr ⟨‹_›, h⟩)

theorem execWaitpre_moves (h : execWaitpre s = .next t) : PumpMove s .waitpre t := by
  unfold execWaitpre at h
  cases h
  split
  · exact .preOver ‹_›
  · exact .stays

theorem execTxplane_moves (h : execTxplane s = .next t) : PumpMove s .txplane t := by
  unfold execTxplane at h
  split at h
  next here => exact sendPlane_moves .txplane here h
  next here => cases h; exact .sent .txplane here
  next => cases h

/-- Everything the checkpoint can do at once (R169). -/
theorem serveOne_moves (here : s.pph = .start) (hsf : s.sf = 2) (h : s.serveOne = .next t) : MaintMove s t := by
  rcases serveOne_cases h with ⟨hreq, _, rfl⟩ | ⟨hfree, lvl, c, hreq, hc, rfl⟩ | ⟨hcopy, hcreq, hreq, rfl⟩ |
    ⟨hcopy, hcreq, hcmd, rfl⟩
  · exact .copyAtOnce here hsf hreq
  · exact .creqAtOnce here hsf hfree hreq hc
  · exact .cmdAtOnce here hsf ⟨hcopy, hcreq⟩ hreq
  · exact .passes (.inr (.inl ⟨hcopy, hcreq, hcmd⟩))

theorem readOne_idx (it : ComposeItem) (aFirst : Bool) (a b : Byte) : (it.readOne aFirst a b).idx = it.idx := by
  unfold ComposeItem.readOne
  split
  · split <;> rfl
  · rfl
  · rfl

/-- One read of a COMPOSE under way (R131). -/
theorem composeStep_moves {todo : List ComposeItem} (here : s.pph = .compose todo) (h : s.composeStep todo = .next t) :
    MaintMove s t := by
  rcases composeStep_cases h with ⟨_, rfl⟩ | ⟨it, hk, _, ⟨a, b, _, _, rfl⟩ | rfl⟩
  · exact .composed here
  · exact .composePuts here hk
  · rw [oweCompose_of_ne]
    · exact .composeReads here hk (readOne_idx ..)
    · intro hnil
      have hempty : todo = [] := by simpa using hnil
      simp [hempty] at hk

theorem execMaint_moves (h : execMaint s = .next t) : MaintMove s t := by
  unfold execMaint at h
  split at h
  next here =>
    split at h
    next hsf =>
      split at h
      · exact serveOne_moves here hsf h
      · cases h
        split
        · exact oweCompose_of_ne (s := s) (todo := composeItems) (by simp [composeItems]) ▸ .composes here hsf ‹_›
        · exact .looksAtCreq here hsf (by simpa using ‹¬s.copyPending = true›)
    next hsf => cases h; exact .passes (.inl ⟨here, hsf⟩)
  next todo here => exact composeStep_moves here h
  next here => cases h; exact .copyServed here
  next here =>
    split at h <;> cases h
    · exact .takesCreq here ‹_›
    · exact .looksAtCmd here ‹_›
  next here =>
    split at h <;> cases h
    exact .recomputes here ‹_›
  next here => cases h; exact .creqServed here
  next here =>
    split at h <;> cases h
    · exact .takesCmd here ‹_›
    · exact .passes (.inr (.inr ⟨here, by simpa using ‹¬s.pendingCmd = true›⟩))
  next here => cases h; exact .cmdServed here
  next => cases h

theorem execWaitsub_moves (h : execWaitsub s = .next t) : PumpMove s .waitsub t := by
  unfold execWaitsub at h
  cases h
  split
  · exact .subOver ‹_›
  · exact .stays

theorem execNext_moves (h : execNext s = .next t) : PumpMove s .next t := by
  unfold execNext at h
  split at h <;> cases h
  · exact .nextCycle ‹_›
  · exact .nextSubframe ‹_›

theorem execTxfinal_moves (h : execTxfinal s = .next t) : PumpMove s .txfinal t := by
  unfold execTxfinal at h
  split at h
  next here => exact sendPlane_moves .txfinal here h
  next here => cases h; exact .sent .txfinal here
  next => cases h

/-- Everything a micro-operation can do. -/
theorem exec_pump_moves {i : Instr} (hi : i.layer = .phase) (h : exec i s = .next t) : PumpMove s i t := by
  cases i with
  | idle => exact execIdle_moves h
  | bringup => exact execBringup_moves h
  | park => exact execPark_moves h
  | waitpre => exact execWaitpre_moves h
  | txplane => exact execTxplane_moves h
  | cadj1 => exact sendThenGoto_moves_of_unstamped .cadj1 h
  | resume => exact sendThenGoto_moves_of_unstamped .resume h
  | cadj2 => exact sendThenGoto_moves_of_unstamped .cadj2 h
  | maint => exact .maint (execMaint_moves h)
  | waitsub => exact execWaitsub_moves h
  | next => exact execNext_moves h
  | blank => cases h; exact .blanks
  | txfinal => exact execTxfinal_moves h
  | setstop => cases h; exact .halts
  | halt => cases h; exact .stays
  | _ => cases hi

/-! ### Bus primitives -/

/-- A state after the byte of frame `f` has been shifted out by the agent of the turn (R191, R192). -/
def State.shifted (s : State) (f : Frame) : State :=
  s.sendByte (f.getLsbD 8) (f.extractLsb' 0 8) (turnSender s.turn) (s.moreToSend (turnSender s.turn) (f.getLsbD 8))

/-- The bus primitive of a frame shifts its byte out, and cannot fail (R191, R192). -/
theorem exec_decodeFrame (f : Frame) (s : State) : exec (decodeFrame f) s = .next (s.shifted f) := by
  rcases decodeFrame_cases f with ⟨hdc, e⟩ | ⟨hdc, e⟩ <;> rw [e, State.shifted, hdc] <;> rfl

theorem exec_bus {i : Instr} (hi : i.layer = .bus) (h : exec i s = .next t) : ∃ f, t = s.shifted f := by
  have hframe : ∃ f, encode i = .frame f := by
    cases i with
    | txc b => exact ⟨_, rfl⟩
    | txd b => exact ⟨_, rfl⟩
    | _ => cases hi
  obtain ⟨f, hf⟩ := hframe
  rw [← decodeFrame_encode hf, exec_decodeFrame] at h
  cases h
  exact ⟨f, rfl⟩

end PumpOps

/-! ### Turns -/

/-- Everything the turn recorded in `s` can do: it runs an operation, or none. -/
inductive TurnMove (s : State) : State → Prop
  | hostShifts {g : Grain} {k : Nat} {f : Frame} {rest : List Frame} (hturn : s.turn = .host g k)
      (hfs : s.hostTx = f :: rest) : TurnMove s ({ s with hostTx := rest }.shifted f)
  | hostGoesOn {g : Grain} {k : Nat} {i : Instr} {t : State} (hturn : s.turn = .host g k) (hfs : s.hostTx = [])
      (hop : s.hop = some i) (hfetch : fetch s = .run i s) (h : exec i s = .next t) : TurnMove s t
  | hostAccepts {g : Grain} {k : Nat} {i : Instr} {rest : List HWord} {t : State} (hturn : s.turn = .host g k)
      (hfs : s.hostTx = []) (hop : s.hop = none) (hdecode : decodeHost s.hostIn = .ok i rest)
      (hfetch : fetch s = .run i (s.accept i rest)) (h : exec i (s.accept i rest) = .next t) : TurnMove s t
  | hostRefuses {g : Grain} {k : Nat} (rest : List HWord) (hturn : s.turn = .host g k) (hfs : s.hostTx = [])
      (hop : s.hop = none) : TurnMove s ({ s with hostIn := rest }.refuse .illegal)
  | hostIdles {g : Grain} {k : Nat} (hturn : s.turn = .host g k) : TurnMove s s
  | pumpShifts {g : Grain} {k : Nat} {f : Frame} {rest : List Frame} (hturn : s.turn = .pump g k)
      (hfs : s.pumpTx = f :: rest) : TurnMove s ({ s with pumpTx := rest }.shifted f)
  | pumpRuns {g : Grain} {k : Nat} {i : Instr} {t : State} (hturn : s.turn = .pump g k) (hfs : s.pumpTx = [])
      (hph : encode i = .phase s.ph) (hfetch : fetch s = .run i s) (h : exec i s = .next t) : TurnMove s t
  | timebase {us : Nat} (hturn : s.turn = .timebase us) : TurnMove s (s.advance us)

/-- Every step takes a turn and is one of its moves. -/
theorem step_moves {s t : State} (h : step s = .next t) : TurnMove s.takeTurn t := by
  unfold step at h
  generalize s.takeTurn = u at h
  cases hturn : u.turn with
  | host g k =>
    have hf : fetch u = fetchHost u := by rw [fetch, hturn]
    rcases fetchHost_cases u with ⟨f, rest, hfs, e⟩ | ⟨hfs, i, hop, e⟩ | ⟨hfs, hop, i, rest, hd, e⟩ |
        ⟨hfs, hop, why, rest, hd, e⟩ | ⟨hfs, hop, hd, e⟩ <;> rw [hf, e] at h <;> dsimp only at h
    · rw [exec_decodeFrame] at h
      cases h
      exact .hostShifts hturn hfs
    · exact .hostGoesOn hturn hfs hop (hf.trans e) h
    · exact .hostAccepts hturn hfs hop hd (hf.trans e) h
    · cases h
      exact .hostRefuses rest hturn hfs hop
    · cases h
      exact .hostIdles hturn
  | pump g k =>
    have hf : fetch u = fetchPump u := by rw [fetch, hturn]
    rcases fetchPump_cases u with ⟨f, rest, hfs, e⟩ | ⟨hfs, i, hp, e⟩ | ⟨hfs, hp, e⟩ <;> rw [hf, e] at h <;>
      dsimp only at h
    · rw [exec_decodeFrame] at h
      cases h
      exact .pumpShifts hturn hfs
    · exact .pumpRuns hturn hfs (encode_of_decodePhase hp) (hf.trans e) h
    · cases h
  | timebase us =>
    rw [fetch, hturn] at h
    cases h
    exact .timebase hturn

end Sys2Proof.Machine
end

section
/-! What a host operation writes and leaves alone, and that it keeps the clauses of the invariant. -/

namespace Sys2Proof.Machine

/-- The canonical form of the planes goes with the planes (R62). -/
theorem planesOk_congr {s t : State} (hl : SameLogical s t) (hd : SameDerived s t) : t.planesOk = s.planesOk := by
  obtain ⟨hla, hlb⟩ := hl
  obtain ⟨hd0, hd1, hd2⟩ := hd
  simp [State.planesOk, hla, hlb, hd0, hd1, hd2]

/-- Only what HOST may write differs (R50): logical planes, cells, queue, bus, host port and the time left of a `wait`. -/
def HostWrites (s t : State) : Prop :=
  t = { s with
    la := t.la, lb := t.lb, runState := t.runState, copyPending := t.copyPending, pendingCmd := t.pendingCmd
    creq := t.creq, cmdq := t.cmdq, cmdqLen := t.cmdqLen, sdo := t.sdo, sck := t.sck, dc := t.dc, cs := t.cs
    res := t.res, busLog := t.busLog, hop := t.hop, hph := t.hph, responses := t.responses
    waitLeft := t.waitLeft, hostTx := t.hostTx }

section HostOps
variable {s t u : State} {i : Instr}

theorem HostWrites.trans (h : HostWrites s t) (h' : HostWrites t u) : HostWrites s u := by
  unfold HostWrites at *
  rw [h', h]

theorem HostWrites.derived (h : HostWrites s t) : SameDerived s t :=
  ⟨(congrArg State.dp0 h :), (congrArg State.dp1 h :), (congrArg State.dp2 h :)⟩

theorem HostWrites.stamps (h : HostWrites s t) : SameStamps s t :=
  ⟨(congrArg State.ts1 h :), (congrArg State.ts3 h :)⟩

theorem HostWrites.place (h : HostWrites s t) : SamePlace s t :=
  ⟨(congrArg State.ph h :), (congrArg State.sf h :), (congrArg State.pph h :)⟩

theorem HostWrites.cadj (h : HostWrites s t) : t.cadj = s.cadj := (congrArg State.cadj h :)
theorem HostWrites.pumpTx (h : HostWrites s t) : t.pumpTx = s.pumpTx := (congrArg State.pumpTx h :)
theorem HostWrites.cfg (h : HostWrites s t) : t.cfg = s.cfg := (congrArg State.cfg h :)
theorem HostWrites.now (h : HostWrites s t) : t.now = s.now := (congrArg State.now h :)
theorem HostWrites.turn (h : HostWrites s t) : t.turn = s.turn := (congrArg State.turn h :)

theorem HostAsks.writes (h : HostAsks s i t) : HostWrites s t := by cases h <;> rfl

theorem Brings.host_writes {o : Option (List BringItem)} (h : Brings .host s u o) : HostWrites s u := by
  have hframe := h.frame
  rw [h.otherTx.2 rfl] at hframe
  unfold HostWrites
  rw [hframe]

theorem oweWrites_writes (todo : List PlaneAct) : HostWrites s (s.oweWrites todo) := by
  unfold State.oweWrites
  split <;> rfl

theorem putLogical_writes (p : LogicalPlane) (j : Nat) (v : Byte) : HostWrites s (s.putLogical p j v) := by
  cases p <;> rfl

theorem txc_host_writes (bytes : List Byte) : HostWrites s (s.txc bytes .host) := by
  unfold State.txc State.sendBurst
  split <;> rfl

/-- A host operation writes only what HOST may write (R50). -/
theorem HostMove.writes (h : HostMove s i t) : HostWrites s t := by
  cases h with
  | puts => exact (putLogical_writes ..).trans (oweWrites_writes _)
  | asksAndResponds h => exact h.writes.trans rfl
  | asksAndReads h => exact h.writes.trans rfl
  | asksAndPolls h => exact h.writes.trans rfl
  | brings h => exact h.host_writes.trans rfl
  | releases h => exact h.host_writes.trans rfl
  | restoresAtOnce => exact (txc_host_writes _).trans rfl
  | _ => rfl

/-! ### Cells, queue, planes and bus -/

/-- HOST clears no request (R24, R25, R26). -/
theorem HostMove.requests (h : HostMove s i t) :
    (s.copyPending = true → t.copyPending = true) ∧ (s.pendingCmd = true → t.pendingCmd = true) ∧
      (t.creq = none → s.creq = none) := by
  cases h with
  | asksAndResponds h | asksAndReads h | asksAndPolls h => cases h <;> simp
  | brings h | releases h =>
    obtain ⟨_, hcopy, hcmd, hcreq⟩ := h.cells
    simp [hcopy, hcmd, hcreq]
  | _ => simp [State.txc]

/-- HOST writes the queue only in COMMAND, whole, when its length was found legal and the queue free (R29, R150). -/
theorem HostMove.queue (h : HostMove s i t) :
    (t.cmdq = s.cmdq ∧ t.cmdqLen = s.cmdqLen) ∨
    ∃ bytes, i = .command bytes ∧ t.cmdq = bytes ++ s.cmdq.drop bytes.length ∧
      t.cmdqLen = BitVec.ofNat 8 bytes.length ∧
      ((lengthOk s.cfg bytes = true ∧ s.pendingCmd = false) ∨ s.hph = .queue) := by
  cases h with
  | asksAndResponds h | asksAndReads h | asksAndPolls h => cases h <;> exact .inl ⟨rfl, rfl⟩
  | brings h | releases h => exact .inl h.registers.2
  | queuesAtOnce _ hlen hfree => exact .inr ⟨_, rfl, rfl, rfl, .inl ⟨hlen, hfree⟩⟩
  | queues here => exact .inr ⟨_, rfl, rfl, rfl, .inr here⟩
  | _ => exact .inl (by simp [State.txc])

/-- HOST writes the logical planes only in FILL and PIXEL, and keeps them canonical (R21, R62). -/
theorem HostMove.logical (h : HostMove s i t) :
    SameLogical s t ∨ (Paints i ∧ (s.planesOk = true → t.planesOk = true)) := by
  cases h with
  | asksAndResponds h | asksAndReads h | asksAndPolls h => cases h <;> exact .inl ⟨rfl, rfl⟩
  | brings h | releases h => exact .inl h.logical
  | fills => exact .inr ⟨trivial, planesOk_fillPlanes _⟩
  | plots => exact .inr ⟨trivial, planesOk_plotPixel _ _ _⟩
  | @puts _ todo k p j v hi =>
    refine .inr ⟨hi, fun hs => ?_⟩
    have hput := planesOk_putLogical p j v hs
    rw [State.planesOk_iff] at hput ⊢
    simpa using hput
  | _ => exact .inl (by simp [SameLogical, State.txc])

/-- HOST writes RUNSTATE only at START's release and TEARDOWN's request (R23). -/
theorem HostMove.runState (h : HostMove s i t) :
    t.runState = s.runState ∨ (i = .start ∧ StartBrings s ∧ t.runState = .running) ∨
    (i = .teardown ∧ ((s.hph = .issue ∧ s.runState = .running) ∨ s.hph = .stop) ∧ t = s.requestStop) := by
  cases h with
  | asksAndResponds h | asksAndReads h | asksAndPolls h => cases h <;> exact .inl rfl
  | brings h => exact .inl h.cells.1
  | releases _ here => exact .inr (.inl ⟨rfl, here, rfl⟩)
  | stops here => exact .inr (.inr ⟨rfl, here, rfl⟩)
  | _ => exact .inl (by simp [State.txc])

/-- HOST uses the bus only in START's bring-up and TEARDOWN's restore (R200). -/
theorem HostMove.bus (h : HostMove s i t) :
    SameBus s t ∨ (i = .start ∧ StartBrings s) ∨ (i = .teardown ∧ s.hph = .restore) := by
  cases h with
  | asksAndResponds h | asksAndReads h | asksAndPolls h => cases h <;> exact .inl (by simp [SameBus])
  | brings _ here | releases _ here => exact .inr (.inl ⟨rfl, here⟩)
  | restoresAtOnce here | restores here => exact .inr (.inr ⟨rfl, here⟩)
  | _ => exact .inl (by simp [SameBus])

/-- HOST logs command bytes of its own, and RES only in START (R45, R200). -/
theorem HostMove.log (h : HostMove s i t) :
    ∃ sent, t.busLog = s.busLog ++ sent ∧
      ∀ e ∈ sent, (i = .start ∧ ∃ level, e = .res level) ∨ ∃ b, e = .byte false b .host := by
  cases h with
  | asksAndResponds h | asksAndReads h | asksAndPolls h => cases h <;> exact ⟨[], by simp⟩
  | brings h | releases h =>
    obtain ⟨sent, hlog, hsent⟩ := h.log
    exact ⟨sent, hlog, fun e he => (hsent e he).imp_left fun hres => ⟨rfl, hres⟩⟩
  | restoresAtOnce => exact ⟨_, sendBurst_busLog .., by simp⟩
  | _ => exact ⟨[], by simp⟩

/-- HOST's responses are a history (R96). -/
theorem HostMove.responses (h : HostMove s i t) : s.responses <+: t.responses := by
  cases h with
  | asksAndResponds h | asksAndReads h | asksAndPolls h => cases h <;> simp
  | brings h => simp [h.port.2.2]
  | releases h => simp [h.port.2.2]
  | puts =>
    unfold State.oweWrites
    split <;> simp
  | _ => simp [State.txc]

end HostOps
end Sys2Proof.Machine
end

section
/-! A host operation keeps the invariant, clause by clause. -/

namespace Sys2Proof.Machine

/-! ### The pump's place when HOST changes the run state -/

/-- The pump's place goes with Running as it goes with Waiting (R141). -/
theorem pumpPlaceOk_released {p : BitVec 4} {q : PumpPhase} {f : Fin 3} (h : pumpPlaceOk p q .waiting f = true) :
    pumpPlaceOk p q .running f = true := by
  unfold pumpPlaceOk at h ⊢
  split <;> simp_all [RunState.looping]

/-- The pump's place goes with Stopping as it goes with Running (R148). -/
theorem pumpPlaceOk_stopping {p : BitVec 4} {q : PumpPhase} {f : Fin 3} (h : pumpPlaceOk p q .running f = true) :
    pumpPlaceOk p q .stopping f = true := by
  unfold pumpPlaceOk at h ⊢
  split <;> simp_all [RunState.looping]

/-- In Waiting the pump is at the beginning of IDLE. -/
theorem pumpPlaceOk_waiting {p : BitVec 4} {q : PumpPhase} {f : Fin 3} (h : pumpPlaceOk p q .waiting f = true) :
    p = 0#4 ∧ q = .start := by
  unfold pumpPlaceOk at h
  split at h
  next h0 =>
    simp only [Bool.and_eq_true, beq_iff_eq] at h
    exact ⟨BitVec.eq_of_toNat_eq h0, h.1.1⟩
  all_goals simp [RunState.looping] at h

/-! ### Plane accesses owed -/

theorem owedOk_iff (todo : List PlaneAct) : owedOk todo = true ↔ todo ≠ [] ∧ ∀ a ∈ todo, a.index < planeBytes := by
  simp [owedOk, List.all_eq_true]

theorem owedOk_fillActs (sh : BitVec 2) : owedOk (fillActs sh) = true := by
  rw [owedOk_iff]
  refine ⟨by simp [fillActs], fun a ha => ?_⟩
  simp only [fillActs, List.mem_append, List.mem_map, List.mem_range] at ha
  rcases ha with ⟨j, hj, rfl⟩ | ⟨j, hj, rfl⟩ <;> exact hj

/-- A pixel on the screen has its byte in the plane (R61, R124). -/
theorem pixelIndex_lt {x y : Int} (hon : onScreen x y = true) : pixelIndex x.toNat y.toNat < planeBytes := by
  simp only [onScreen, Bool.and_eq_true, decide_eq_true_eq] at hon
  simp only [pixelIndex, planeBytes, pageRows, width, height] at hon ⊢
  omega

theorem owedOk_pixelActs {x y : Int} (sh : BitVec 2) (hon : onScreen x y = true) :
    owedOk (pixelActs x.toNat y.toNat sh) = true := by
  rw [owedOk_iff]
  simp [pixelActs, PlaneAct.index, pixelIndex_lt hon]

theorem owedOk_set {todo : List PlaneAct} {k : Nat} {a b : PlaneAct} (h : owedOk todo = true) (hk : todo[k]? = some a)
    (hidx : b.index = a.index) : owedOk (todo.set k b) = true := by
  rw [owedOk_iff] at h ⊢
  refine ⟨by simpa using h.1, fun c hc => ?_⟩
  rcases List.mem_or_eq_of_mem_set hc with hc | rfl
  · exact h.2 c hc
  · rw [hidx]
    exact h.2 a (List.mem_of_getElem? hk)

theorem owedOk_eraseIdx {todo : List PlaneAct} {k : Nat} (h : owedOk todo = true) (hne : todo.eraseIdx k ≠ []) :
    owedOk (todo.eraseIdx k) = true := by
  rw [owedOk_iff] at h ⊢
  exact ⟨hne, fun c hc => h.2 c (List.mem_of_mem_eraseIdx hc)⟩

/-! ### The place of the host -/

section HostOps
variable {s t u : State} {i : Instr} {p : HostPhase}

theorem WaitsForPump.eq_or (h : WaitsForPump i) : i = .showSync ∨ ∃ lvl, i = .contrastSync lvl := by
  cases i with
  | showSync => exact .inl rfl
  | contrastSync lvl => exact .inr ⟨lvl, rfl⟩
  | _ => exact h.elim

theorem HostAsks.port (h : HostAsks s i t) : t.cfg = s.cfg ∧ t.hop = s.hop ∧ t.runState = s.runState := by
  cases h <;> exact ⟨rfl, rfl, rfl⟩

/-- An operation goes on at places of its own (R38). -/
theorem HostGoes.place (h : HostGoes s i p) (hs : hostPlaceOk s.cfg (some i) s.hph = true) :
    hostPlaceOk s.cfg (some i) p = true := by
  simp only [hostPlaceOk, Bool.and_eq_true] at hs ⊢
  refine ⟨hs.1, ?_⟩
  obtain ⟨_, hs⟩ := hs
  cases h with
  | fill => simpa using owedOk_fillActs _
  | pixel _ hon => simpa using owedOk_pixelActs _ hon
  | paint hi here hk =>
    simp only [here, Bool.and_eq_true] at hs ⊢
    exact ⟨hs.1, owedOk_set hs.2 hk rfl⟩
  | poll _ here => cases i <;> simp_all
  | _ => simp_all

theorem HostMove.hostPlace (h : HostMove s i t) (hop : s.hop = some i)
    (hs : hostPlaceOk s.cfg (some i) s.hph = true) : hostPlaceOk t.cfg t.hop t.hph = true := by
  cases h with
  | stays => rwa [hop]
  | goes hg => simpa [hop] using hg.place hs
  | puts hi here hk =>
    unfold State.oweWrites
    split
    · rfl
    next hne =>
      simp only [hostPlaceOk, here, Bool.and_eq_true] at hs
      simp [hostPlaceOk, hop, hs, owedOk_eraseIdx hs.2.2 hne]
  | asksAndReads h hi | asksAndPolls h hi =>
    rcases hi.eq_or with rfl | ⟨lvl, rfl⟩ <;> simp [hostPlaceOk, h.port, hop, Instr.layer, Instr.wf]
  | brings h here =>
    obtain ⟨huhop, _, _⟩ := h.port
    have hstrap : s.cfg.startMode = .delayed := by
      rcases here with ⟨_, hstrap, _⟩ | ⟨⟨items, hbring⟩, _⟩
      · exact hstrap
      · simpa [hostPlaceOk, hbring, Instr.layer, Instr.wf] using hs
    simp [hostPlaceOk, huhop, hop, h.cfg, hstrap, Instr.layer, Instr.wf]
  | stops | restores => simp [hostPlaceOk, hop, Instr.layer, Instr.wf]
  | queues here => simpa [hostPlaceOk, hop, here] using hs
  | _ => rfl

/-- START brings up in Waiting (R141, R231). -/
theorem StartBrings.waiting_of_hostRun {hop : Option Instr} (h : StartBrings s)
    (hs : hostRunOk hop s.hph s.runState = true) : s.runState = .waiting := by
  rcases h with ⟨_, _, hrun⟩ | ⟨⟨items, hbring⟩, _⟩
  · exact hrun
  · simpa [hostRunOk, hbring] using hs

theorem HostGoes.run (h : HostGoes s i p) : hostRunOk (some i) p s.runState = true := by
  cases h with
  | poll hi _ hrun =>
    have hne : i ≠ .teardown := by rintro rfl; exact hi
    simp [hostRunOk, hne, hrun]
  | _ => simp_all [hostRunOk]

/-- HPH fits the run state after a turn of HOST (R231). -/
theorem HostMove.hostRun (h : HostMove s i t) (hop : s.hop = some i) (hs : hostRunOk (some i) s.hph s.runState = true) :
    hostRunOk t.hop t.hph t.runState = true := by
  cases h with
  | stays => rwa [hop]
  | goes hg => simpa [hop] using hg.run
  | puts => 
    unfold State.oweWrites
    split <;> rfl
  | asksAndReads => rfl
  | asksAndPolls h hi here hrun =>
    obtain ⟨_, huhop, hurun⟩ := h.port
    have hne : i ≠ .teardown := by rintro rfl; exact hi
    simp [hostRunOk, huhop, hop, hne, hurun, hrun]
  | brings h here =>
    simp [hostRunOk, h.cells.1, here.waiting_of_hostRun hs]
  | stops => simp [hostRunOk, hop]
  | restores here => simpa [hostRunOk, here] using hs
  | _ => rfl

/-- HOST leaves frames pending only inside START's bring-up and TEARDOWN's restore, and command frames only (R200). -/
theorem HostMove.frames (h : HostMove s i t) (hfs : s.hostTx = []) :
    (t.hostTx ≠ [] → t.hph.sends = true) ∧ ∀ f ∈ t.hostTx, f.getLsbD 8 = false := by
  cases h with
  | asksAndResponds h | asksAndReads h | asksAndPolls h => cases h <;> simp [hfs]
  | brings h =>
    obtain ⟨fs, hu, hdc, _⟩ := h.hostTx
    rw [hfs, List.nil_append] at hu
    exact ⟨fun _ => rfl, by simpa [hu] using hdc⟩
  | releases h =>
    have hu : _ = s.hostTx := (h.done rfl).2.1
    simp [hu, hfs]
  | restores =>
    refine ⟨fun _ => rfl, ?_⟩
    simp only [hostAt_hostTx, enqueue_host_hostTx, hfs, List.nil_append, framesOf, List.mem_map]
    rintro f ⟨b, _, rfl⟩
    exact frameBits_dc false b
  | _ => simp [hfs, State.txc]

/-- While TEARDOWN waits for Stopped, HOST's turn changes nothing (R148). -/
theorem HostMove.eq_of_stopping (h : HostMove s .teardown t) (hpoll : s.hph = .poll) (hrun : s.runState = .stopping) :
    t = s := by
  cases h with
  | stays => rfl
  | goes hg => cases hg <;> simp_all
  | responds _ _ hne => exact absurd hpoll (hne rfl)
  | puts hi => exact hi.elim
  | asksAndResponds h | asksAndReads h | asksAndPolls h => cases h
  | stops here | restoresAtOnce here | restores here => simp_all

/-- COMMAND fills the queue only while PENDINGCMD = 0 (R29, R263). -/
theorem HostMove.queueFree (h : HostMove s i t) (hs : s.hph.fillsQueue = true → s.pendingCmd = false) :
    t.hph.fillsQueue = true → t.pendingCmd = false := by
  cases h with
  | stays => exact hs
  | goes hg => cases hg <;> simp_all [HostPhase.fillsQueue]
  | puts => unfold State.oweWrites; split <;> simp [HostPhase.fillsQueue]
  | queues here => exact fun _ => hs (by rw [here]; rfl)
  | _ => simp [HostPhase.fillsQueue]

/-- Out of a bring-up an operation goes on to no other place but in the bring-up (R141). -/
theorem HostGoes.brings_eq_false (h : HostGoes s i p) : s.hph.brings = false := by
  cases h with
  | stop here => rcases here with here | here <;> rw [here] <;> rfl
  | fill here | pixel here | poll _ here | paint _ here | bring here | awaitRunning here | restore here | queue here
  | stat1 here | stat2 here | stat3 here => rw [here]; rfl

/-- A `wait` is left under way only inside a bring-up (R194). -/
theorem HostMove.wait (h : HostMove s i t) (hs : s.waitLeft ≠ 0 → s.hph.brings = true ∨ s.pph.brings = true) :
    t.waitLeft ≠ 0 → t.hph.brings = true ∨ t.pph.brings = true := by
  have hpph : t.pph = s.pph := h.writes.place.2.2
  have keep (hw : t.waitLeft = s.waitLeft) (hb : s.hph.brings = false) :
      t.waitLeft ≠ 0 → t.hph.brings = true ∨ t.pph.brings = true := by
    rw [hw, hpph]
    exact fun h0 => .inr ((hs h0).resolve_left (by simp [hb]))
  cases h with
  | stays => exact hs
  | goes hg => exact keep rfl hg.brings_eq_false
  | responds _ hb => exact keep rfl hb
  | asksAndResponds h here | asksAndReads h _ here | asksAndPolls h _ here =>
    exact keep (by cases h <;> rfl) (by rw [here]; rfl)
  | puts _ here => exact keep (by simp) (by rw [here]; rfl)
  | brings => exact fun _ => .inl rfl
  | releases h here =>
    have hw : _ = s.waitLeft := (h.done rfl).1
    rcases here with ⟨here, _⟩ | ⟨_, hzero⟩
    · exact keep hw (by rw [here]; rfl)
    · exact fun h0 => absurd (hw.trans hzero) h0
  | stops here => exact keep rfl (by rcases here with ⟨here, _⟩ | here <;> rw [here] <;> rfl)
  | restoresAtOnce here => exact keep (by simp [State.txc]) (by rw [here]; rfl)
  | fills here | plots here | restores here | queuesAtOnce here | queues here | flags here =>
    exact keep rfl (by rw [here]; rfl)

/-! ### The whole invariant -/

/-- HOST writes RUNSTATE from Waiting to Running and from Running to Stopping only (R23, R27). -/
theorem HostMove.runState_of_inv (h : HostMove s i t) (hI : Inv s) (hop : s.hop = some i) :
    t.runState = s.runState ∨ (i = .start ∧ s.runState = .waiting ∧ t.runState = .running) ∨
    (i = .teardown ∧ s.runState = .running ∧ t = s.requestStop) := by
  have hrun := hI.hostRun
  rcases h.runState with hsame | ⟨rfl, here, ht⟩ | ⟨rfl, here, ht⟩
  · exact .inl hsame
  · exact .inr (.inl ⟨rfl, here.waiting_of_hostRun hrun, ht⟩)
  · refine .inr (.inr ⟨rfl, ?_, ht⟩)
    rcases here with ⟨_, hr⟩ | here
    · exact hr
    · simpa [here, hostRunOk] using hrun

/-- HOST writes the queue only while PENDINGCMD = 0, and keeps its size (R29, R263). -/
theorem HostMove.queue_of_inv (h : HostMove s i t) (hI : Inv s) (hop : s.hop = some i) :
    (t.cmdq = s.cmdq ∧ t.cmdqLen = s.cmdqLen) ∨
    (s.pendingCmd = false ∧ t.cmdq.length = s.cfg.cmdqMax ∧ t.cmdqLen.toNat ≤ s.cfg.cmdqMax) := by
  rcases h.queue with hsame | ⟨bytes, rfl, hq, hl, hfree⟩
  · exact .inl hsame
  · obtain ⟨hlen, hfree⟩ : lengthOk s.cfg bytes = true ∧ s.pendingCmd = false := by
      rcases hfree with hfree | here
      · exact hfree
      · have hplace := hI.hostPlace
        simp only [hostPlaceOk, hop, here, Bool.and_eq_true] at hplace
        exact ⟨hplace.2, hI.cmdFree (by rw [here]; rfl)⟩
    have hle : bytes.length ≤ s.cfg.cmdqMax := by
      simp only [lengthOk, Bool.and_eq_true, decide_eq_true_eq] at hlen
      exact hlen.2
    have hsize := hI.queueSize
    refine .inr ⟨hfree, ?_, ?_⟩
    · rw [hq, List.length_append, List.length_drop]
      omega
    · rw [hl, BitVec.toNat_ofNat]
      exact (Nat.mod_le _ _).trans hle

/-- A turn of a host operation keeps the invariant. -/
theorem HostMove.keeps_inv (h : HostMove s i t) (hI : Inv s) (hop : s.hop = some i) (hfs : s.hostTx = []) : Inv t := by
  have hw := h.writes
  obtain ⟨hcopy, hcmd, hcreq⟩ := h.requests
  obtain ⟨hph, hsf, hpph⟩ := hw.place
  have hplace : hostPlaceOk s.cfg (some i) s.hph = true := hop ▸ hI.hostPlace
  have hrun : hostRunOk (some i) s.hph s.runState = true := hop ▸ hI.hostRun
  have hqueue : t.cmdq.length = t.cfg.cmdqMax ∧ t.cmdqLen.toNat ≤ t.cfg.cmdqMax := by
    rw [hw.cfg]
    rcases h.queue_of_inv hI hop with ⟨hq, hl⟩ | ⟨_, hsize⟩
    · rw [hq, hl]
      exact ⟨hI.queueSize, hI.queueLen⟩
    · exact hsize
  exact {
    cfgOk := hw.cfg ▸ hI.cfgOk
    planes := by
      rcases h.logical with hl | ⟨_, hkeep⟩
      · exact (planesOk_congr hl hw.derived).trans hI.planes
      · exact hkeep hI.planes
    queueSize := hqueue.1
    queueLen := hqueue.2
    pumpPlace := by
      have hp := hI.pumpPlace
      rw [hph, hsf, hpph]
      rcases h.runState_of_inv hI hop with hsame | ⟨_, hr, ht⟩ | ⟨_, hr, rfl⟩
      · rwa [hsame]
      · rw [ht]; exact pumpPlaceOk_released (hr ▸ hp)
      · exact pumpPlaceOk_stopping (hr ▸ hp)
    pumpBus := by rw [hw.pumpTx, hpph]; exact hI.pumpBus
    hostPlace := h.hostPlace hop hplace
    hostRun := h.hostRun hop hrun
    hostBus := (h.frames hfs).1
    hostFrames := (h.frames hfs).2
    stopping := by
      intro ht
      rcases h.runState_of_inv hI hop with hsame | ⟨_, _, hr⟩ | ⟨rfl, _, rfl⟩
      · obtain ⟨hop', hpoll⟩ := hI.stopping (hsame ▸ ht)
        obtain rfl : i = .teardown := Option.some.inj (hop.symm.trans hop')
        rw [h.eq_of_stopping hpoll (hsame ▸ ht)]
        exact ⟨hop', hpoll⟩
      · rw [hr] at ht; cases ht
      · exact ⟨hop, rfl⟩
    copyHeld := by rw [hpph]; exact fun hheld => hcopy (hI.copyHeld hheld)
    creqHeld := by
      rw [hpph]
      intro hheld
      rw [Option.isSome_iff_ne_none]
      exact fun hnone => by simpa [hcreq hnone] using hI.creqHeld hheld
    cmdHeld := by rw [hpph]; exact fun hheld => hcmd (hI.cmdHeld hheld)
    cmdFree := h.queueFree hI.cmdFree
    waitUnderWay := h.wait hI.waitUnderWay }

end HostOps

end Sys2Proof.Machine
end

section
/-! What a micro-operation writes and leaves alone. -/

namespace Sys2Proof.Machine

/-- Only what PUMP may write differs (R50): derived planes, cells, CADJ, stamps, its place, the bus and the time left of a
`wait`. -/
def PumpWrites (s t : State) : Prop :=
  t = { s with
    dp0 := t.dp0, dp1 := t.dp1, dp2 := t.dp2, runState := t.runState, copyPending := t.copyPending
    pendingCmd := t.pendingCmd, creq := t.creq, cadj := t.cadj, ts1 := t.ts1, ts3 := t.ts3, ph := t.ph, sf := t.sf
    pph := t.pph, sdo := t.sdo, sck := t.sck, dc := t.dc, cs := t.cs, res := t.res, busLog := t.busLog
    waitLeft := t.waitLeft, pumpTx := t.pumpTx }

section PumpOps
variable {s t u : State} {i : Instr} {p : BitVec 4}

theorem PumpWrites.trans (h : PumpWrites s t) (h' : PumpWrites t u) : PumpWrites s u := by
  unfold PumpWrites at *
  rw [h', h]

theorem PumpWrites.logical (h : PumpWrites s t) : SameLogical s t :=
  ⟨(congrArg State.la h :), (congrArg State.lb h :)⟩

theorem PumpWrites.port (h : PumpWrites s t) : SamePort s t :=
  ⟨(congrArg State.hop h :), (congrArg State.hph h :), (congrArg State.responses h :)⟩

theorem PumpWrites.queue (h : PumpWrites s t) : t.cmdq = s.cmdq ∧ t.cmdqLen = s.cmdqLen :=
  ⟨(congrArg State.cmdq h :), (congrArg State.cmdqLen h :)⟩

theorem PumpWrites.hostIn (h : PumpWrites s t) : t.hostIn = s.hostIn := (congrArg State.hostIn h :)
theorem PumpWrites.hostTx (h : PumpWrites s t) : t.hostTx = s.hostTx := (congrArg State.hostTx h :)
theorem PumpWrites.cfg (h : PumpWrites s t) : t.cfg = s.cfg := (congrArg State.cfg h :)
theorem PumpWrites.now (h : PumpWrites s t) : t.now = s.now := (congrArg State.now h :)
theorem PumpWrites.turn (h : PumpWrites s t) : t.turn = s.turn := (congrArg State.turn h :)

theorem Brings.pump_writes {o : Option (List BringItem)} (h : Brings .pump s u o) : PumpWrites s u := by
  have hframe := h.frame
  rw [h.otherTx.1 rfl] at hframe
  unfold PumpWrites
  rw [hframe]

theorem sendBurst_pump_writes (dc : Bool) (bytes : List Byte) : PumpWrites s (s.sendBurst dc bytes .pump) := by
  unfold State.sendBurst
  split <;> rfl

theorem oweCompose_writes (todo : List ComposeItem) : PumpWrites s (s.oweCompose todo) := by
  unfold State.oweCompose
  split <;> rfl

theorem PumpSends.writes (h : PumpSends s i u p) : PumpWrites s u := by cases h <;> rfl

theorem MaintMove.writes (h : MaintMove s t) : PumpWrites s t := by
  cases h with
  | cmdAtOnce => exact (sendBurst_pump_writes ..).trans rfl
  | composePuts => exact (show PumpWrites s (s.putDerived _ _ _) from rfl).trans (oweCompose_writes _)
  | _ => rfl

/-- A micro-operation writes only what PUMP may write (R50). -/
theorem PumpMove.writes (h : PumpMove s i t) : PumpWrites s t := by
  cases h with
  | brings h | bringEnds h => exact h.pump_writes.trans rfl
  | sendsAtOnce h => exact h.writes.trans ((sendBurst_pump_writes ..).trans ((sendBurst_pump_writes ..).trans rfl))
  | sends h => exact h.writes.trans rfl
  | maint h => exact h.writes
  | _ => rfl

/-! ### Cells, CADJ, derived planes, stamps and bus -/

/-- PUMP sets no request (R24, R25, R26). -/
theorem MaintMove.requests (h : MaintMove s t) :
    (t.copyPending = true → s.copyPending = true) ∧ (t.pendingCmd = true → s.pendingCmd = true) ∧
      (t.creq = none ∨ t.creq = s.creq) := by
  cases h <;> simp [State.txc]

theorem PumpMove.requests (h : PumpMove s i t) :
    (t.copyPending = true → s.copyPending = true) ∧ (t.pendingCmd = true → s.pendingCmd = true) ∧
      (t.creq = none ∨ t.creq = s.creq) := by
  cases h with
  | brings h | bringEnds h =>
    obtain ⟨_, hcopy, hcmd, hcreq⟩ := h.cells
    simp [hcopy, hcmd, hcreq]
  | sendsAtOnce h | sends h => cases h <;> simp [State.txc, State.txd]
  | maint h => exact h.requests
  | _ => simp

/-- PUMP writes RUNSTATE only at BRINGUP's end and at SETSTOP (R23). -/
theorem PumpMove.runState (h : PumpMove s i t) :
    t.runState = s.runState ∨ (i = .bringup ∧ t.runState = .running) ∨ (i = .setstop ∧ t.runState = .stopped) := by
  cases h with
  | brings h => exact .inl h.cells.1
  | bringEnds => exact .inr (.inl ⟨rfl, rfl⟩)
  | sendsAtOnce h | sends h => cases h <;> exact .inl (by simp [State.txc, State.txd])
  | maint h => cases h <;> exact .inl (by simp [State.txc])
  | halts => exact .inr (.inr ⟨rfl, rfl⟩)
  | _ => exact .inl rfl

/-- MAINT works on CADJ and the derived planes only past its beginning or with SF = 2 (R169). -/
theorem MaintMove.served (h : MaintMove s t) :
    (t.cadj = s.cadj ∧ SameDerived s t) ∨ s.pph ≠ .start ∨ s.sf = 2 := by
  cases h with
  | passes => exact .inl (by simp [SameDerived])
  | copyAtOnce _ hsf | creqAtOnce _ hsf | cmdAtOnce _ hsf | composes _ hsf | looksAtCreq _ hsf => exact .inr (.inr hsf)
  | composeReads here | composePuts here | composed here | copyServed here | takesCreq here | recomputes here
  | creqServed here | looksAtCmd here | takesCmd here | cmdServed here => exact .inr (.inl (by rw [here]; exact nofun))

/-- PUMP writes CADJ only in MAINT, and the derived planes only there or, DP[0], in BLANK (R22, R28). -/
theorem PumpMove.served (h : PumpMove s i t) :
    (t.cadj = s.cadj ∧ SameDerived s t) ∨ (i = .maint ∧ (s.pph ≠ .start ∨ s.sf = 2)) ∨
    (i = .blank ∧ t.cadj = s.cadj ∧ t.dp1 = s.dp1 ∧ t.dp2 = s.dp2) := by
  cases h with
  | brings h | bringEnds h => exact .inl ⟨h.registers.1, h.derived⟩
  | sendsAtOnce h | sends h => cases h <;> exact .inl (by simp [SameDerived, State.txc, State.txd])
  | maint h => exact h.served.imp_right fun hs => .inl ⟨rfl, hs⟩
  | blanks => exact .inr (.inr ⟨rfl, rfl, rfl, rfl⟩)
  | _ => exact .inl ⟨rfl, rfl, rfl, rfl⟩

/-- PUMP writes TS1 only in PARK and TS3 only in TXPLANE (R30). -/
theorem PumpMove.stamps (h : PumpMove s i t) : (t.ts1 = s.ts1 ∨ i = .park) ∧ (t.ts3 = s.ts3 ∨ i = .txplane) := by
  cases h with
  | brings h | bringEnds h =>
    obtain ⟨hts1, hts3⟩ := h.stamps
    exact ⟨.inl hts1, .inl hts3⟩
  | sendsAtOnce h | sends h => cases h <;> simp [State.txc, State.txd]
  | maint h => cases h <;> simp [State.txc]
  | _ => exact ⟨.inl rfl, .inl rfl⟩

/-- MAINT keeps the planes canonical (R62). -/
theorem MaintMove.planes (h : MaintMove s t) (hs : s.planesOk = true) : t.planesOk = true := by
  cases h with
  | copyAtOnce =>
    rw [planesOk_congr (s := s.composeAll) ⟨by simp, by simp⟩ ⟨by simp, by simp, by simp⟩]
    exact planesOk_composeAll hs
  | composePuts =>
    rw [planesOk_congr (oweCompose_writes _).logical ⟨oweCompose_dp0 .., oweCompose_dp1 .., oweCompose_dp2 ..⟩]
    exact planesOk_putDerived _ _ _ hs
  | cmdAtOnce =>
    rw [planesOk_congr (s := s) (by simp [SameLogical, State.txc]) (by simp [SameDerived, State.txc])]
    exact hs
  | _ => exact hs

/-- PUMP keeps the planes canonical (R62). -/
theorem PumpMove.planes (h : PumpMove s i t) (hs : s.planesOk = true) : t.planesOk = true := by
  cases h with
  | maint h => exact h.planes hs
  | blanks =>
    rw [State.planesOk_iff] at hs ⊢
    exact ⟨hs.1, hs.2.1, Memory.wf_ofFn _, hs.2.2.2⟩
  | brings h | bringEnds h => exact (planesOk_congr h.logical h.derived).trans hs
  | sendsAtOnce h =>
    rw [planesOk_congr (s := s)] <;> cases h <;> simp [SameLogical, SameDerived, State.txc, State.txd, hs]
  | sends h => cases h <;> exact hs
  | _ => exact hs

/-- PUMP logs bytes of its own, and RES only in BRINGUP (R45, R200). -/
theorem PumpMove.log (h : PumpMove s i t) :
    ∃ sent, t.busLog = s.busLog ++ sent ∧
      ∀ e ∈ sent, (i = .bringup ∧ ∃ level, e = .res level) ∨ ∃ dc b, e = .byte dc b .pump := by
  cases h with
  | brings h | bringEnds h =>
    obtain ⟨sent, hlog, hsent⟩ := h.log
    refine ⟨sent, hlog, fun e he => (hsent e he).imp (fun hres => ⟨rfl, hres⟩) ?_⟩
    rintro ⟨b, rfl⟩
    exact ⟨false, b, rfl⟩
  | sendsAtOnce h _ cmds datas =>
    refine ⟨cmds.map (.byte false · .pump) ++ datas.map (.byte true · .pump), ?_, ?_⟩
    · cases h <;> simp [State.txc, State.txd]
    · simp only [List.mem_append, List.mem_map]
      rintro e (⟨b, _, rfl⟩ | ⟨b, _, rfl⟩) <;> exact .inr ⟨_, b, rfl⟩
  | sends h => cases h <;> exact ⟨[], by simp⟩
  | maint h =>
    cases h with
    | cmdAtOnce => 
      refine ⟨_, sendBurst_busLog .., ?_⟩
      simp only [List.mem_map]
      rintro e ⟨b, _, rfl⟩
      exact .inr ⟨_, b, rfl⟩
    | _ => exact ⟨[], by simp⟩
  | _ => exact ⟨[], by simp⟩

/-- At IDLE and HALT the pump leaves the bus alone (R161, R175). -/
theorem PumpMove.sameBus (h : PumpMove s i t) (hi : i = .idle ∨ i = .halt) : SameBus s t := by
  rcases hi with rfl | rfl
  · cases h with
    | stays | idles | enters => simp [SameBus]
    | sendsAtOnce h | sends h | sent h => cases h
  · cases h with
    | stays => simp [SameBus]
    | sendsAtOnce h | sends h | sent h => cases h

end PumpOps
end Sys2Proof.Machine
end

section
/-! A micro-operation keeps the invariant, clause by clause. -/

namespace Sys2Proof.Machine

/-! ### Indices a COMPOSE owes -/

theorem inMaint_compose_iff (todo : List ComposeItem) :
    (PumpPhase.compose todo).inMaint = true ↔ todo ≠ [] ∧ ∀ it ∈ todo, it.idx < planeBytes := by
  simp [PumpPhase.inMaint, List.all_eq_true]

theorem inMaint_composeItems : (PumpPhase.compose composeItems).inMaint = true := by
  rw [inMaint_compose_iff]
  refine ⟨by simp [composeItems], fun it hit => ?_⟩
  simp only [composeItems, List.mem_map, List.mem_range] at hit
  obtain ⟨j, hj, rfl⟩ := hit
  exact hj

theorem inMaint_compose_set {todo : List ComposeItem} {k : Nat} {a b : ComposeItem}
    (h : (PumpPhase.compose todo).inMaint = true) (hk : todo[k]? = some a) (hidx : b.idx = a.idx) :
    (PumpPhase.compose (todo.set k b)).inMaint = true := by
  rw [inMaint_compose_iff] at h ⊢
  refine ⟨by simpa using h.1, fun c hc => ?_⟩
  rcases List.mem_or_eq_of_mem_set hc with hc | rfl
  · exact h.2 c hc
  · rw [hidx]
    exact h.2 a (List.mem_of_getElem? hk)

theorem inMaint_compose_eraseIdx {todo : List ComposeItem} {k : Nat} (h : (PumpPhase.compose todo).inMaint = true)
    (hne : todo.eraseIdx k ≠ []) : (PumpPhase.compose (todo.eraseIdx k)).inMaint = true := by
  rw [inMaint_compose_iff] at h ⊢
  exact ⟨hne, fun c hc => h.2 c (List.mem_of_mem_eraseIdx hc)⟩

/-! ### The place of the pump -/

section PumpOps
variable {s t u : State} {i : Instr} {p : BitVec 4}

section Places
variable {q : PumpPhase} {r : RunState} {f : Fin 3}

theorem pumpPlaceOk_idle_iff :
    pumpPlaceOk Ph.idle q r f = true ↔ q = .start ∧ (r = .waiting ∨ r.looping = true) ∧ f = 0 := by
  simp [pumpPlaceOk, and_assoc]

theorem pumpPlaceOk_bringup_iff :
    pumpPlaceOk Ph.bringup q r f = true ↔ (q = .start ∨ ∃ items, q = .bring items) ∧ r = .starting ∧ f = 0 := by
  cases q <;> simp [pumpPlaceOk]

theorem pumpPlaceOk_park_iff :
    pumpPlaceOk Ph.park q r f = true ↔ (q = .start ∨ q = .sent) ∧ r.looping = true := by
  simp [pumpPlaceOk]

theorem pumpPlaceOk_waitpre_iff : pumpPlaceOk Ph.waitpre q r f = true ↔ q = .start ∧ r.looping = true := by
  simp [pumpPlaceOk]

theorem pumpPlaceOk_txplane_iff :
    pumpPlaceOk Ph.txplane q r f = true ↔ (q = .start ∨ q = .sent) ∧ r.looping = true := by
  simp [pumpPlaceOk]

theorem pumpPlaceOk_maint_iff :
    pumpPlaceOk Ph.maint q r f = true ↔ (q = .start ∨ (q.inMaint = true ∧ f = 2)) ∧ r.looping = true := by
  simp [pumpPlaceOk]

theorem pumpPlaceOk_waitsub_iff : pumpPlaceOk Ph.waitsub q r f = true ↔ q = .start ∧ r.looping = true := by
  simp [pumpPlaceOk]

theorem pumpPlaceOk_next_iff : pumpPlaceOk Ph.next q r f = true ↔ q = .start ∧ r.looping = true := by
  simp [pumpPlaceOk]

theorem pumpPlaceOk_blank_iff : pumpPlaceOk Ph.blank q r f = true ↔ q = .start ∧ r = .stopping ∧ f = 0 := by
  simp [pumpPlaceOk, and_assoc]

theorem pumpPlaceOk_txfinal_iff :
    pumpPlaceOk Ph.txfinal q r f = true ↔ (q = .start ∨ q = .sent) ∧ r = .stopping ∧ f = 0 := by
  simp [pumpPlaceOk, and_assoc]

theorem pumpPlaceOk_setstop_iff : pumpPlaceOk Ph.setstop q r f = true ↔ q = .start ∧ r = .stopping ∧ f = 0 := by
  simp [pumpPlaceOk, and_assoc]

theorem pumpPlaceOk_halt_iff : pumpPlaceOk Ph.halt q r f = true ↔ q = .start ∧ r = .stopped ∧ f = 0 := by
  simp [pumpPlaceOk, and_assoc]

end Places

/-- A sending micro-operation may stand at its beginning or in its sending; its successor takes over its run states. -/
theorem PumpSends.place (h : PumpSends s i u p) (hph : encode i = .phase s.ph)
    (hs : pumpPlaceOk s.ph s.pph s.runState s.sf = true) :
    pumpPlaceOk p .start s.runState s.sf = true ∧ pumpPlaceOk s.ph .sent s.runState s.sf = true := by
  cases h <;>
    · rw [← Code.phase.inj hph] at hs ⊢
      simp_all [pumpPlaceOk]

theorem MaintMove.place (h : MaintMove s t) (hph : s.ph = Ph.maint)
    (hs : pumpPlaceOk s.ph s.pph s.runState s.sf = true) : pumpPlaceOk t.ph t.pph t.runState t.sf = true := by
  rw [hph, pumpPlaceOk_maint_iff] at hs
  obtain ⟨hplace, hrun⟩ := hs
  cases h with
  | composes _ hsf => simp [hph, pumpPlaceOk_maint_iff, inMaint_composeItems, hsf, hrun]
  | composeReads here hk hidx =>
    simp only [here, reduceCtorEq, false_or] at hplace
    simp [hph, pumpPlaceOk_maint_iff, hrun, inMaint_compose_set hplace.1 hk hidx, hplace.2]
  | composePuts here =>
    simp only [here, reduceCtorEq, false_or] at hplace
    unfold State.oweCompose
    split
    · simp [hph, pumpPlaceOk_maint_iff, hrun, PumpPhase.inMaint, hplace.2]
    next hne => simp [hph, pumpPlaceOk_maint_iff, hrun, inMaint_compose_eraseIdx hplace.1 hne, hplace.2]
  | looksAtCreq _ hsf => simp [hph, pumpPlaceOk_maint_iff, PumpPhase.inMaint, hsf, hrun]
  | composed here | takesCreq here | recomputes here | looksAtCmd here | takesCmd here =>
    simp only [here, reduceCtorEq, false_or] at hplace
    simp [hph, pumpPlaceOk_maint_iff, hrun, PumpPhase.inMaint, hplace.2]
  | _ => simp [State.txc, pumpPlaceOk_waitsub_iff, hrun]

/-- The pump goes on at a place that fits the run state (R104, R160, R231). -/
theorem PumpMove.place (h : PumpMove s i t) (hph : encode i = .phase s.ph)
    (hs : pumpPlaceOk s.ph s.pph s.runState s.sf = true) : pumpPlaceOk t.ph t.pph t.runState t.sf = true := by
  cases h with
  | stays => exact hs
  | sendsAtOnce h =>
    have hp := (h.place hph hs).1
    cases h <;> simpa [State.txc, State.txd] using hp
  | sends h =>
    have hp := (h.place hph hs).2
    cases h <;> simpa [State.txc, State.txd] using hp
  | sent h => exact (h.place hph hs).1
  | maint h => exact h.place (Code.phase.inj hph).symm hs
  | idles =>
    rw [← Code.phase.inj hph, pumpPlaceOk_idle_iff] at hs
    exact pumpPlaceOk_idle_iff.2 ⟨rfl, hs.2⟩
  | enters hrun =>
    rw [← Code.phase.inj hph, pumpPlaceOk_idle_iff] at hs
    exact pumpPlaceOk_park_iff.2 ⟨.inl rfl, hs.2.1.resolve_left hrun⟩
  | bringBegins =>
    rw [← Code.phase.inj hph, pumpPlaceOk_bringup_iff] at hs
    rw [pumpAt_ph, ← Code.phase.inj hph]
    exact pumpPlaceOk_bringup_iff.2 ⟨.inr ⟨_, rfl⟩, hs.2⟩
  | brings h =>
    obtain ⟨hu, hsf, _⟩ := h.place
    rw [← Code.phase.inj hph, pumpPlaceOk_bringup_iff] at hs
    rw [pumpAt_ph, hu, ← Code.phase.inj hph, pumpAt_runState, h.cells.1, pumpAt_sf, hsf]
    exact pumpPlaceOk_bringup_iff.2 ⟨.inr ⟨_, rfl⟩, hs.2⟩
  | bringEnds => exact pumpPlaceOk_park_iff.2 ⟨.inl rfl, rfl⟩
  | preOver =>
    rw [← Code.phase.inj hph, pumpPlaceOk_waitpre_iff] at hs
    exact pumpPlaceOk_txplane_iff.2 ⟨.inl rfl, hs.2⟩
  | subOver =>
    rw [← Code.phase.inj hph, pumpPlaceOk_waitsub_iff] at hs
    exact pumpPlaceOk_next_iff.2 ⟨rfl, hs.2⟩
  | nextSubframe =>
    rw [← Code.phase.inj hph, pumpPlaceOk_next_iff] at hs
    exact pumpPlaceOk_park_iff.2 ⟨.inl rfl, hs.2⟩
  | nextCycle =>
    rw [← Code.phase.inj hph, pumpPlaceOk_next_iff] at hs
    split
    next hstop => exact pumpPlaceOk_blank_iff.2 ⟨rfl, hstop, rfl⟩
    next => exact pumpPlaceOk_park_iff.2 ⟨.inl rfl, hs.2⟩
  | blanks =>
    rw [← Code.phase.inj hph, pumpPlaceOk_blank_iff] at hs
    exact pumpPlaceOk_txfinal_iff.2 ⟨.inl rfl, hs.2⟩
  | halts =>
    rw [← Code.phase.inj hph, pumpPlaceOk_setstop_iff] at hs
    exact pumpPlaceOk_halt_iff.2 ⟨rfl, rfl, hs.2.2⟩

/-! ### Frames, requests under service and `wait` items -/

/-- PUMP leaves frames pending only inside a sending micro-operation. -/
theorem PumpMove.frames (h : PumpMove s i t) (hfs : s.pumpTx = []) : t.pumpTx ≠ [] → t.pph.sends = true := by
  cases h with
  | brings => exact fun _ => rfl
  | bringEnds h =>
    have hu : _ = s.pumpTx := (h.done rfl).2.2
    simp [hu, hfs]
  | sendsAtOnce h => cases h <;> simp [State.txc, State.txd, hfs]
  | sends => exact fun _ => rfl
  | maint h =>
    cases h with
    | takesCmd => exact fun _ => rfl
    | _ => simp [State.txc, hfs]
  | _ => simp [hfs]

/-- A request is held while MAINT serves it (R24, R25, R26). -/
def Held (s : State) : Prop :=
  (s.pph.holdsCopy = true → s.copyPending = true) ∧ (s.pph.holdsCreq = true → s.creq.isSome = true) ∧
    (s.pph = .clearCmd → s.pendingCmd = true)

/-- At the beginning of a micro-operation, and inside one that is not MAINT, no request is being served. -/
theorem held_of_idle (h : s.pph = .start ∨ s.pph = .sent ∨ ∃ items, s.pph = .bring items) : Held s := by
  rcases h with h | h | ⟨items, h⟩ <;> simp [Held, h, PumpPhase.holdsCopy, PumpPhase.holdsCreq]

theorem MaintMove.held (h : MaintMove s t) (hs : Held s) : Held t := by
  obtain ⟨hcopy, hcreq, hcmd⟩ := hs
  cases h with
  | composes _ _ hreq => exact ⟨fun _ => hreq, nofun, nofun⟩
  | composeReads here | composed here => exact ⟨fun _ => hcopy (by rw [here]; rfl), nofun, nofun⟩
  | composePuts here =>
    have hreq := hcopy (by rw [here]; rfl)
    unfold State.oweCompose
    split <;> exact ⟨fun _ => hreq, nofun, nofun⟩
  | takesCreq _ hreq => exact ⟨nofun, fun _ => by simp [hreq], nofun⟩
  | recomputes here => exact ⟨nofun, fun _ => hcreq (by rw [here]; rfl), nofun⟩
  | takesCmd _ hreq => exact ⟨nofun, nofun, fun _ => hreq⟩
  | looksAtCreq | looksAtCmd => exact ⟨nofun, nofun, nofun⟩
  | _ => exact held_of_idle (.inl rfl)

theorem PumpMove.held (h : PumpMove s i t) (hs : Held s) : Held t := by
  cases h with
  | stays => exact hs
  | maint h => exact h.held hs
  | sends => exact held_of_idle (.inr (.inl rfl))
  | bringBegins | brings => exact held_of_idle (.inr (.inr ⟨_, rfl⟩))
  | _ => exact held_of_idle (.inl rfl)

/-- The pump is in a bring-up only in BRINGUP (R162). -/
theorem pumpPlaceOk_brings {q : PumpPhase} {r : RunState} {f : Fin 3} (h : pumpPlaceOk p q r f = true)
    (hq : q.brings = true) : p = Ph.bringup := by
  unfold pumpPlaceOk at h
  cases q with
  | bring items =>
    split at h
    case h_2 h1 => exact BitVec.eq_of_toNat_eq h1
    all_goals simp [PumpPhase.inMaint] at h
  | _ => cases hq

/-- A `wait` is left under way only inside a bring-up (R194). -/
theorem PumpMove.wait (h : PumpMove s i t) (hph : encode i = .phase s.ph)
    (hplace : pumpPlaceOk s.ph s.pph s.runState s.sf = true)
    (hs : s.waitLeft ≠ 0 → s.hph.brings = true ∨ s.pph.brings = true) :
    t.waitLeft ≠ 0 → t.hph.brings = true ∨ t.pph.brings = true := by
  have hhph : t.hph = s.hph := h.writes.port.2.1
  have keep (hw : t.waitLeft = s.waitLeft) (hb : s.pph.brings = false) :
      t.waitLeft ≠ 0 → t.hph.brings = true ∨ t.pph.brings = true := by
    rw [hw, hhph]
    exact fun h0 => .inl ((hs h0).resolve_right (by simp [hb]))
  have out (hi : i ≠ .bringup) : s.pph.brings = false := by
    by_contra hb
    have hp := pumpPlaceOk_brings hplace (by simpa using hb)
    rw [hp] at hph
    have hdecode := decodePhase_encode hph
    exact hi (Option.some.inj hdecode).symm
  cases h with
  | stays => exact hs
  | bringBegins | brings => exact fun _ => .inr rfl
  | bringEnds h here =>
    have hw : _ = s.waitLeft := (h.done rfl).1
    rcases here with here | ⟨_, hzero⟩
    · exact keep hw (by rw [here]; rfl)
    · exact fun h0 => absurd (hw.trans hzero) h0
  | sendsAtOnce h here => exact keep (by cases h <;> simp [State.txc, State.txd]) (by rw [here]; rfl)
  | sends h here => exact keep (by cases h <;> rfl) (by rw [here]; rfl)
  | sent _ here => exact keep rfl (by rw [here]; rfl)
  | maint h => exact keep (by cases h <;> simp [State.txc]) (out nofun)
  | _ => exact keep rfl (out nofun)

/-! ### The whole invariant -/

/-- HPH fits Running when it fits Starting: TEARDOWN waits for it (R149). -/
theorem hostRunOk_running {hop : Option Instr} {q : HostPhase} (h : hostRunOk hop q .starting = true) :
    hostRunOk hop q .running = true := by
  cases q <;> simp_all [hostRunOk]

/-- HPH fits Stopped when it fits Stopping: TEARDOWN waits for it (R148). -/
theorem hostRunOk_stopped {hop : Option Instr} {q : HostPhase} (h : hostRunOk hop q .stopping = true) :
    hostRunOk hop q .stopped = true := by
  cases q <;> simp_all [hostRunOk]

/-- PUMP writes RUNSTATE from Starting to Running and from Stopping to Stopped only (R23, R27). -/
theorem PumpMove.runState_of_inv (h : PumpMove s i t) (hI : Inv s) (hph : encode i = .phase s.ph) :
    t.runState = s.runState ∨ (s.ph = Ph.bringup ∧ s.runState = .starting ∧ t.runState = .running) ∨
    (s.ph = Ph.setstop ∧ s.runState = .stopping ∧ t.runState = .stopped) := by
  have hplace := hI.pumpPlace
  rcases h.runState with hsame | ⟨rfl, ht⟩ | ⟨rfl, ht⟩
  · exact .inl hsame
  · have hp := Code.phase.inj hph
    rw [← hp, pumpPlaceOk_bringup_iff] at hplace
    exact .inr (.inl ⟨hp.symm, hplace.2.1, ht⟩)
  · have hp := Code.phase.inj hph
    rw [← hp, pumpPlaceOk_setstop_iff] at hplace
    exact .inr (.inr ⟨hp.symm, hplace.2.1, ht⟩)

/-- A turn of a micro-operation keeps the invariant. -/
theorem PumpMove.keeps_inv (h : PumpMove s i t) (hI : Inv s) (hph : encode i = .phase s.ph) (hfs : s.pumpTx = []) :
    Inv t := by
  have hw := h.writes
  obtain ⟨hcopy, hcmd, hcreq⟩ := h.requests
  obtain ⟨hhop, hhph, _⟩ := hw.port
  obtain ⟨hq, hl⟩ := hw.queue
  have hheld := h.held ⟨hI.copyHeld, hI.creqHeld, hI.cmdHeld⟩
  have hrun := h.runState_of_inv hI hph
  exact {
    cfgOk := hw.cfg ▸ hI.cfgOk
    planes := h.planes hI.planes
    queueSize := by rw [hq, hw.cfg]; exact hI.queueSize
    queueLen := by rw [hl, hw.cfg]; exact hI.queueLen
    pumpPlace := h.place hph hI.pumpPlace
    pumpBus := h.frames hfs
    hostPlace := by rw [hw.cfg, hhop, hhph]; exact hI.hostPlace
    hostRun := by
      have hs := hI.hostRun
      rw [hhop, hhph]
      rcases hrun with hsame | ⟨_, hr, ht⟩ | ⟨_, hr, ht⟩
      · rwa [hsame]
      · rw [ht]; exact hostRunOk_running (hr ▸ hs)
      · rw [ht]; exact hostRunOk_stopped (hr ▸ hs)
    hostBus := by rw [hw.hostTx, hhph]; exact hI.hostBus
    hostFrames := by rw [hw.hostTx]; exact hI.hostFrames
    stopping := by
      intro ht
      rw [hhop, hhph]
      rcases hrun with hsame | ⟨_, _, hr⟩ | ⟨_, _, hr⟩
      · exact hI.stopping (hsame ▸ ht)
      · rw [hr] at ht; cases ht
      · rw [hr] at ht; cases ht
    copyHeld := hheld.1
    creqHeld := hheld.2.1
    cmdHeld := hheld.2.2
    cmdFree := by
      rw [hhph]
      exact fun hfill => by simpa [hI.cmdFree hfill] using hcmd
    waitUnderWay := h.wait hph hI.pumpPlace hI.waitUnderWay }

end PumpOps
end Sys2Proof.Machine
end

section
/-! Whole turns: every step keeps the invariant and the histories. -/

namespace Sys2Proof.Machine

section Turns
variable {s t u v : State} {i : Instr} {g : Grain} {k : Nat}

/-! ### Changes the invariant does not see -/

/-- The invariant looks at no line, log, stamp, word, response, turn or time; and frames shifted out or time passed keep
it. -/
theorem Inv.of_unseen (h : Inv s)
    (e : t = { s with
      ts1 := t.ts1, ts3 := t.ts3, sdo := t.sdo, sck := t.sck, dc := t.dc, cs := t.cs, res := t.res, busLog := t.busLog
      now := t.now, hostIn := t.hostIn, responses := t.responses, waitLeft := t.waitLeft, hostTx := t.hostTx
      pumpTx := t.pumpTx, turn := t.turn, sched := t.sched, draws := t.draws })
    (hhost : t.hostTx ⊆ s.hostTx) (hpump : t.pumpTx ⊆ s.pumpTx) (hwait : t.waitLeft ≤ s.waitLeft) : Inv t := by
  rw [e]
  exact {
    cfgOk := h.cfgOk
    planes := h.planes
    queueSize := h.queueSize
    queueLen := h.queueLen
    pumpPlace := h.pumpPlace
    pumpBus := fun hne => h.pumpBus fun hnil => hne (List.subset_nil.1 (hnil ▸ hpump))
    hostPlace := h.hostPlace
    hostRun := h.hostRun
    hostBus := fun hne => h.hostBus fun hnil => hne (List.subset_nil.1 (hnil ▸ hhost))
    hostFrames := fun f hf => h.hostFrames f (hhost hf)
    stopping := h.stopping
    copyHeld := h.copyHeld
    creqHeld := h.creqHeld
    cmdHeld := h.cmdHeld
    cmdFree := h.cmdFree
    waitUnderWay := fun h0 => h.waitUnderWay (by simp only at h0; omega) }

theorem Inv.takeTurn (h : Inv s) : Inv s.takeTurn := by
  refine h.of_unseen ?_ (by simp) (by simp) (by simp)
  unfold State.takeTurn
  split <;> rfl

theorem Inv.advance (h : Inv s) (us : Nat) : Inv (s.advance us) :=
  h.of_unseen rfl (List.Subset.refl _) (List.Subset.refl _) (Nat.sub_le _ _)

theorem Inv.shifted_host {f : Frame} {rest : List Frame} (h : Inv s) (hfs : s.hostTx = f :: rest) :
    Inv ({ s with hostTx := rest }.shifted f) :=
  h.of_unseen rfl (hfs ▸ List.subset_cons_self f rest) (List.Subset.refl _) (Nat.le_refl _)

theorem Inv.shifted_pump {f : Frame} {rest : List Frame} (h : Inv s) (hfs : s.pumpTx = f :: rest) :
    Inv ({ s with pumpTx := rest }.shifted f) :=
  h.of_unseen rfl (List.Subset.refl _) (hfs ▸ List.subset_cons_self f rest) (Nat.le_refl _)

/-- An idle port is at Issue (R38). -/
theorem Inv.issue_of_idle (h : Inv s) (hop : s.hop = none) : s.hph = .issue := by
  simpa [hostPlaceOk, hop] using h.hostPlace

/-- The port may take any well-formed operation of the host layer (R38). -/
theorem Inv.accept (h : Inv s) (hop : s.hop = none) (hfs : s.hostTx = []) (hlayer : i.layer = .host)
    (hwf : i.wf = true) (rest : List HWord) : Inv (s.accept i rest) :=
  { cfgOk := h.cfgOk
    planes := h.planes
    queueSize := h.queueSize
    queueLen := h.queueLen
    pumpPlace := h.pumpPlace
    pumpBus := h.pumpBus
    hostPlace := by simp [State.accept, hostPlaceOk, hlayer, hwf]
    hostRun := rfl
    hostBus := fun hne => absurd hfs hne
    hostFrames := h.hostFrames
    stopping := fun hr => by simpa [hop] using (h.stopping hr).1
    copyHeld := h.copyHeld
    creqHeld := h.creqHeld
    cmdHeld := h.cmdHeld
    cmdFree := nofun
    waitUnderWay := fun h0 => by simpa [h.issue_of_idle hop] using h.waitUnderWay h0 }

/-- Refusing an illegal word at the idle port writes only the words and the responses (R222). -/
theorem Inv.refuse (h : Inv s) (hop : s.hop = none) (rest : List HWord) (e : ErrCode) :
    Inv ({ s with hostIn := rest }.refuse e) := by
  refine h.of_unseen ?_ (List.Subset.refl _) (List.Subset.refl _) (Nat.le_refl _)
  have hhph := h.issue_of_idle hop
  cases s
  simp_all [State.refuse, State.respond]

/-! ### The turns of each agent -/

/-- The operation in flight is one of the host layer (R38). -/
theorem Inv.layer_of_hop (h : Inv s) (hop : s.hop = some i) : i.layer = .host := by
  have hplace := h.hostPlace
  simp only [hostPlaceOk, hop, Bool.and_eq_true, beq_iff_eq] at hplace
  exact hplace.1.1

/-- The port alone may differ: operation in flight, place, words and responses. -/
def OnlyPort (s t : State) : Prop :=
  t = { s with hop := t.hop, hph := t.hph, hostIn := t.hostIn, responses := t.responses }

/-- A HOST turn that runs `i` from `v`: from the state itself, or with `i` just taken at the port. -/
structure HostRuns (s v : State) (i : Instr) (t : State) : Prop where
  fetched : fetch s = .run i v
  port : OnlyPort s v
  inv : Inv v
  hop : v.hop = some i
  frames : v.hostTx = []
  move : HostMove v i t

/-- Everything a HOST turn can do from a state of the invariant. -/
theorem TurnMove.host_of_inv (h : TurnMove s t) (hI : Inv s) (hturn : s.turn = .host g k) :
    (∃ f rest, s.hostTx = f :: rest ∧ t = { s with hostTx := rest }.shifted f) ∨ (∃ v i, HostRuns s v i t) ∨
    (OnlyPort s t ∧ Inv t) := by
  cases h with
  | hostShifts _ hfs => exact .inl ⟨_, _, hfs, rfl⟩
  | hostGoesOn _ hfs hop hfetch h =>
    exact .inr (.inl ⟨s, _, hfetch, rfl, hI, hop, hfs, exec_host_moves (hI.layer_of_hop hop) h⟩)
  | hostAccepts _ hfs hop hdecode hfetch h =>
    obtain ⟨hlayer, hwf⟩ := decodeHost_ok hdecode
    refine .inr (.inl ⟨_, _, hfetch, rfl, ?_, rfl, hfs, exec_host_moves hlayer h⟩)
    exact hI.accept hop hfs hlayer hwf _
  | hostRefuses rest _ _ hop => exact .inr (.inr ⟨rfl, hI.refuse hop rest .illegal⟩)
  | hostIdles => exact .inr (.inr ⟨rfl, hI⟩)
  | pumpShifts hturn' | pumpRuns hturn' | timebase hturn' => rw [hturn'] at hturn; cases hturn

/-- The operation of a phase code is a micro-operation. -/
theorem layer_of_encode_phase {p : BitVec 4} (h : encode i = .phase p) : i.layer = .phase := by
  cases i with
  | fill | pixel | showSync | showAsync | contrast | contrastSync | start | teardown | command | rdstat | txc | txd =>
    cases h
  | _ => rfl

/-- Everything a PUMP turn can do. -/
theorem TurnMove.pump (h : TurnMove s t) (hturn : s.turn = .pump g k) :
    (∃ f rest, s.pumpTx = f :: rest ∧ t = { s with pumpTx := rest }.shifted f) ∨
    (∃ i, s.pumpTx = [] ∧ encode i = .phase s.ph ∧ PumpMove s i t) := by
  cases h with
  | pumpShifts _ hfs => exact .inl ⟨_, _, hfs, rfl⟩
  | pumpRuns _ hfs hph _ h => exact .inr ⟨_, hfs, hph, exec_pump_moves (layer_of_encode_phase hph) h⟩
  | hostShifts hturn' | hostGoesOn hturn' | hostAccepts hturn' | hostRefuses _ hturn' | hostIdles hturn'
  | timebase hturn' => rw [hturn'] at hturn; cases hturn

/-- Everything a TIMEBASE turn can do (R46, R236). -/
theorem TurnMove.timebase_eq {us : Nat} (h : TurnMove s t) (hturn : s.turn = .timebase us) : t = s.advance us := by
  cases h with
  | timebase hturn' => rw [hturn'] at hturn; cases hturn; rfl
  | hostShifts hturn' | hostGoesOn hturn' | hostAccepts hturn' | hostRefuses _ hturn' | hostIdles hturn'
  | pumpShifts hturn' | pumpRuns hturn' => rw [hturn'] at hturn; cases hturn

theorem TurnMove.keeps_inv (h : TurnMove s t) (hI : Inv s) : Inv t := by
  cases hturn : s.turn with
  | host g k =>
    rcases h.host_of_inv hI hturn with ⟨f, rest, hfs, rfl⟩ | ⟨v, i, hr⟩ | ⟨_, ht⟩
    · exact hI.shifted_host hfs
    · exact hr.move.keeps_inv hr.inv hr.hop hr.frames
    · exact ht
  | pump g k =>
    rcases h.pump hturn with ⟨f, rest, hfs, rfl⟩ | ⟨i, hfs, hph, hm⟩
    · exact hI.shifted_pump hfs
    · exact hm.keeps_inv hI hph hfs
  | timebase us =>
    rw [h.timebase_eq hturn]
    exact hI.advance us

/-- Settles O53: the turn is taken, which the invariant does not see, and each kind of turn keeps it. -/
theorem everyStepKeepsInvariant : Obligations.EveryStepKeepsInvariant :=
  fun _ _ hI h => (step_moves h).keeps_inv hI.takeTurn

end Turns
end Sys2Proof.Machine
end

section
/-! The statements about whole steps: who writes what, who sends, and what the histories keep. -/

namespace Sys2Proof.Machine

/-! ### Taking a turn changes nothing that is compared -/

section TakeTurn
variable (s t : State)

@[simp] theorem sameLogical_takeTurn : SameLogical s.takeTurn t ↔ SameLogical s t := by simp [SameLogical]
@[simp] theorem sameDerived_takeTurn : SameDerived s.takeTurn t ↔ SameDerived s t := by simp [SameDerived]
@[simp] theorem sameStamps_takeTurn : SameStamps s.takeTurn t ↔ SameStamps s t := by simp [SameStamps]
@[simp] theorem samePlace_takeTurn : SamePlace s.takeTurn t ↔ SamePlace s t := by simp [SamePlace]
@[simp] theorem sameBus_takeTurn : SameBus s.takeTurn t ↔ SameBus s t := by simp [SameBus]
@[simp] theorem samePort_takeTurn : SamePort s.takeTurn t ↔ SamePort s t := by simp [SamePort]

end TakeTurn

section Turns
variable {s t v : State} {i : Instr} {g : Grain} {k : Nat}

theorem exec_turn (h : exec i s = .next t) : t.turn = s.turn := by
  cases hlayer : i.layer with
  | host => exact (exec_host_moves hlayer h).writes.turn
  | phase => exact (exec_pump_moves hlayer h).writes.turn
  | bus =>
    obtain ⟨f, rfl⟩ := exec_bus hlayer h
    rfl

theorem exec_now (h : exec i s = .next t) : t.now = s.now := by
  cases hlayer : i.layer with
  | host => exact (exec_host_moves hlayer h).writes.now
  | phase => exact (exec_pump_moves hlayer h).writes.now
  | bus =>
    obtain ⟨f, rfl⟩ := exec_bus hlayer h
    rfl

/-- The turn recorded is the turn taken. -/
theorem TurnMove.turn_eq (h : TurnMove s t) : t.turn = s.turn := by
  cases h with
  | hostGoesOn _ _ _ _ h | pumpRuns _ _ _ _ h => exact exec_turn h
  | hostAccepts _ _ _ _ _ h => exact (exec_turn h :)
  | _ => rfl

/-! ### RUNSTATE -/

/-- RUNSTATE changes only by the four transitions, each by its writer (R23, R27). -/
theorem TurnMove.runState_of_inv (h : TurnMove s t) (hI : Inv s) (hne : t.runState ≠ s.runState) :
    (s.runState = .waiting ∧ t.runState = .running ∧ ∃ g k, t.turn = .host g k) ∨
    (s.runState = .starting ∧ t.runState = .running ∧ s.ph = 1#4 ∧ ∃ g k, t.turn = .pump g k) ∨
    (s.runState = .running ∧ t.runState = .stopping ∧ ∃ g k, t.turn = .host g k) ∨
    (s.runState = .stopping ∧ t.runState = .stopped ∧ s.ph = 13#4 ∧ ∃ g k, t.turn = .pump g k) := by
  rw [h.turn_eq]
  cases hturn : s.turn with
  | host g k =>
    rcases h.host_of_inv hI hturn with ⟨f, rest, hfs, rfl⟩ | ⟨v, i, hr⟩ | ⟨hport, _⟩
    · exact absurd rfl hne
    · have hv : v.runState = s.runState := (congrArg State.runState hr.port :)
      rcases hr.move.runState_of_inv hr.inv hr.hop with hsame | ⟨_, hrun, ht⟩ | ⟨_, hrun, rfl⟩
      · exact absurd (hsame.trans hv) hne
      · exact .inl ⟨hv ▸ hrun, ht, g, k, rfl⟩
      · exact .inr (.inr (.inl ⟨hv ▸ hrun, rfl, g, k, rfl⟩))
    · exact absurd (congrArg State.runState hport :) hne
  | pump g k =>
    rcases h.pump hturn with ⟨f, rest, hfs, rfl⟩ | ⟨i, hfs, hph, hm⟩
    · exact absurd rfl hne
    · rcases hm.runState_of_inv hI hph with hsame | ⟨hp, hrun, ht⟩ | ⟨hp, hrun, ht⟩
      · exact absurd hsame hne
      · exact .inr (.inl ⟨hrun, ht, hp, g, k, rfl⟩)
      · exact .inr (.inr (.inr ⟨hrun, ht, hp, g, k, rfl⟩))
  | timebase us => exact absurd (by rw [h.timebase_eq hturn]; rfl) hne

/-- Settles O55: START and TEARDOWN in a HOST turn, BRINGUP and SETSTOP in a PUMP turn. -/
theorem runStateTransitionsHaveOneWriter : Obligations.RunStateTransitionsHaveOneWriter := by
  intro s t hI h hne
  simpa using (step_moves h).runState_of_inv hI.takeTurn (by simpa using hne)

/-! ### Histories -/

/-- What no turn may undo: Cfg, BUSLOG, the responses and `now` (R36, R45, R46, R96). -/
def HistoryKept (s t : State) : Prop :=
  t.cfg = s.cfg ∧ s.busLog <+: t.busLog ∧ s.responses <+: t.responses ∧ s.now ≤ t.now

theorem HistoryKept.trans (h : HistoryKept s v) (h' : HistoryKept v t) : HistoryKept s t := by
  obtain ⟨hcfg, hlog, hresp, hnow⟩ := h
  obtain ⟨hcfg', hlog', hresp', hnow'⟩ := h'
  exact ⟨hcfg'.trans hcfg, hlog.trans hlog', hresp.trans hresp', hnow.trans hnow'⟩

theorem shifted_history (s : State) (f : Frame) : HistoryKept s (s.shifted f) :=
  ⟨rfl, ⟨_, rfl⟩, List.prefix_rfl, Nat.le_refl _⟩

theorem exec_history (h : exec i s = .next t) : HistoryKept s t := by
  cases hlayer : i.layer with
  | host =>
    have hm := exec_host_moves hlayer h
    obtain ⟨sent, hlog, _⟩ := hm.log
    exact ⟨hm.writes.cfg, ⟨sent, hlog.symm⟩, hm.responses, hm.writes.now.ge⟩
  | phase =>
    have hm := exec_pump_moves hlayer h
    obtain ⟨sent, hlog, _⟩ := hm.log
    exact ⟨hm.writes.cfg, ⟨sent, hlog.symm⟩, hm.writes.port.2.2 ▸ List.prefix_rfl, hm.writes.now.ge⟩
  | bus =>
    obtain ⟨f, rfl⟩ := exec_bus hlayer h
    exact shifted_history s f

theorem TurnMove.history (h : TurnMove s t) : HistoryKept s t := by
  cases h with
  | @hostShifts _ _ f rest => exact shifted_history { s with hostTx := rest } f
  | @pumpShifts _ _ f rest => exact shifted_history { s with pumpTx := rest } f
  | hostGoesOn _ _ _ _ h | pumpRuns _ _ _ _ h => exact exec_history h
  | hostAccepts _ _ _ _ _ h => exact (exec_history h :)
  | hostRefuses => exact ⟨rfl, List.prefix_rfl, ⟨_, rfl⟩, Nat.le_refl _⟩
  | hostIdles => exact ⟨rfl, List.prefix_rfl, List.prefix_rfl, Nat.le_refl _⟩
  | timebase => exact ⟨rfl, List.prefix_rfl, List.prefix_rfl, Nat.le_add_right _ _⟩

/-- Settles O59: every operation of every layer keeps the histories, and so do the turns that run none. -/
theorem historyOnlyGrows : Obligations.HistoryOnlyGrows := by
  intro s t h
  simpa [HistoryKept] using (step_moves h).history

/-! ### The access matrix (R50) -/

/-- What a HOST turn leaves alone in every operation (R50). -/
def HostKeeps (s t : State) : Prop :=
  SameDerived s t ∧ t.cadj = s.cadj ∧ SameStamps s t ∧ SamePlace s t ∧ t.pumpTx = s.pumpTx ∧
    (s.copyPending = true → t.copyPending = true) ∧ (s.pendingCmd = true → t.pendingCmd = true) ∧
    (t.creq = none → s.creq = none) ∧ (s.pendingCmd = true → t.cmdq = s.cmdq ∧ t.cmdqLen = s.cmdqLen)

/-- What a PUMP turn leaves alone in every micro-operation (R50). -/
def PumpKeeps (s t : State) : Prop :=
  SameLogical s t ∧ t.cmdq = s.cmdq ∧ t.cmdqLen = s.cmdqLen ∧ SamePort s t ∧ t.hostIn = s.hostIn ∧
    t.hostTx = s.hostTx ∧ (t.copyPending = true → s.copyPending = true) ∧
    (t.pendingCmd = true → s.pendingCmd = true) ∧ (t.creq = none ∨ t.creq = s.creq)

/-- What a PUMP turn writes in the micro-operation of one phase only (R50). -/
def PumpRights (s t : State) : Prop :=
  (t.runState = s.runState ∨ s.ph = 1#4 ∨ s.ph = 13#4) ∧
    (t.cadj = s.cadj ∨ (s.ph = 8#4 ∧ s.sf = 2)) ∧
    (SameDerived s t ∨ (s.ph = 8#4 ∧ s.sf = 2) ∨ (s.ph = 11#4 ∧ t.dp1 = s.dp1 ∧ t.dp2 = s.dp2)) ∧
    (t.ts1 = s.ts1 ∨ s.ph = 2#4) ∧ (t.ts3 = s.ts3 ∨ s.ph = 4#4)

theorem hostKeeps_refl (s : State) : HostKeeps s s :=
  ⟨⟨rfl, rfl, rfl⟩, rfl, ⟨rfl, rfl⟩, ⟨rfl, rfl, rfl⟩, rfl, id, id, id, fun _ => ⟨rfl, rfl⟩⟩

@[simp] theorem hostKeeps_takeTurn (s t : State) : HostKeeps s.takeTurn t ↔ HostKeeps s t := by simp [HostKeeps]
@[simp] theorem pumpKeeps_takeTurn (s t : State) : PumpKeeps s.takeTurn t ↔ PumpKeeps s t := by simp [PumpKeeps]
@[simp] theorem pumpRights_takeTurn (s t : State) : PumpRights s.takeTurn t ↔ PumpRights s t := by simp [PumpRights]

theorem HostMove.keeps (h : HostMove s i t) (hI : Inv s) (hop : s.hop = some i) : HostKeeps s t := by
  have hw := h.writes
  obtain ⟨hcopy, hcmd, hcreq⟩ := h.requests
  refine ⟨hw.derived, hw.cadj, hw.stamps, hw.place, hw.pumpTx, hcopy, hcmd, hcreq, fun hpend => ?_⟩
  rcases h.queue_of_inv hI hop with hsame | ⟨hfree, _⟩
  · exact hsame
  · rw [hfree] at hpend
    cases hpend

/-- A HOST turn that takes an operation at the port first changes nothing its rights speak of. -/
theorem HostRuns.keeps (h : HostRuns s v i t) : HostKeeps s t := by
  have hk := h.move.keeps h.inv h.hop
  rw [show v = _ from h.port] at hk
  exact hk

theorem HostRuns.logical (h : HostRuns s v i t) : SameLogical s t ∨ Paints i := by
  have hl := h.move.logical.imp_right And.left
  rw [show v = _ from h.port] at hl
  exact hl

theorem HostRuns.runState (h : HostRuns s v i t) : t.runState = s.runState ∨ i = .start ∨ i = .teardown := by
  have hr := h.move.runState.imp_right (Or.imp And.left And.left)
  rw [show v = _ from h.port] at hr
  exact hr

/-- What a HOST turn does to the planes, cells, registers and places (R50). -/
theorem TurnMove.host_rights (h : TurnMove s t) (hI : Inv s) (hturn : s.turn = .host g k) :
    HostKeeps s t ∧ (SameLogical s t ∨ ∃ i v, Paints i ∧ fetch s = .run i v) ∧
      (t.runState = s.runState ∨ ∃ i v, (i = .start ∨ i = .teardown) ∧ fetch s = .run i v) := by
  rcases h.host_of_inv hI hturn with ⟨f, rest, hfs, rfl⟩ | ⟨v, i, hr⟩ | ⟨hport, _⟩
  · exact ⟨hostKeeps_refl s, .inl ⟨rfl, rfl⟩, .inl rfl⟩
  · exact ⟨hr.keeps, hr.logical.imp_right fun hi => ⟨i, v, hi, hr.fetched⟩,
      hr.runState.imp_right fun hi => ⟨i, v, hi, hr.fetched⟩⟩
  · rw [show t = _ from hport]
    exact ⟨hostKeeps_refl s, .inl ⟨rfl, rfl⟩, .inl rfl⟩

/-- At a place of MAINT past its beginning SF is 2 (R169). -/
theorem Inv.sf_of_maint (hI : Inv s) (hph : encode Instr.maint = .phase s.ph) (h : s.pph ≠ .start ∨ s.sf = 2) :
    s.sf = 2 := by
  have hplace := hI.pumpPlace
  rw [← Code.phase.inj hph, pumpPlaceOk_maint_iff] at hplace
  rcases h with hne | hsf
  · exact (hplace.1.resolve_left hne).2
  · exact hsf

theorem PumpMove.keeps (h : PumpMove s i t) : PumpKeeps s t := by
  have hw := h.writes
  exact ⟨hw.logical, hw.queue.1, hw.queue.2, hw.port, hw.hostIn, hw.hostTx, h.requests⟩

theorem PumpMove.rights (h : PumpMove s i t) (hI : Inv s) (hph : encode i = .phase s.ph) : PumpRights s t := by
  have code {j : Instr} {p : BitVec 4} (hi : i = j) (hj : encode j = .phase p) : s.ph = p :=
    Code.phase.inj (hph.symm.trans (hi ▸ hj))
  obtain ⟨hts1, hts3⟩ := h.stamps
  have hrun : t.runState = s.runState ∨ s.ph = 1#4 ∨ s.ph = 13#4 :=
    h.runState.imp_right (Or.imp (fun hb => code hb.1 rfl) (fun hb => code hb.1 rfl))
  refine ⟨hrun, ?_, ?_, hts1.imp_right (code · rfl), hts3.imp_right (code · rfl)⟩
  · rcases h.served with ⟨hcadj, _⟩ | ⟨hi, hserve⟩ | ⟨_, hcadj, _⟩
    · exact .inl hcadj
    · exact .inr ⟨code hi rfl, hI.sf_of_maint (hi ▸ hph) hserve⟩
    · exact .inl hcadj
  · rcases h.served with ⟨_, hd⟩ | ⟨hi, hserve⟩ | ⟨hi, _, hd⟩
    · exact .inl hd
    · exact .inr (.inl ⟨code hi rfl, hI.sf_of_maint (hi ▸ hph) hserve⟩)
    · exact .inr (.inr ⟨code hi rfl, hd⟩)

/-- What a PUMP turn does to the planes, cells, registers and places (R50). -/
theorem TurnMove.pump_rights (h : TurnMove s t) (hI : Inv s) (hturn : s.turn = .pump g k) :
    PumpKeeps s t ∧ PumpRights s t := by
  rcases h.pump hturn with ⟨f, rest, hfs, rfl⟩ | ⟨i, hfs, hph, hm⟩
  · exact ⟨⟨⟨rfl, rfl⟩, rfl, rfl, ⟨rfl, rfl, rfl⟩, rfl, rfl, id, id, .inr rfl⟩,
      .inl rfl, .inl rfl, .inl ⟨rfl, rfl, rfl⟩, .inl rfl, .inl rfl⟩
  · exact ⟨hm.keeps, hm.rights hI hph⟩

/-- A painting operation is FILL or PIXEL. -/
theorem Paints.fill_or_pixel (h : Paints i) : (∃ sh, i = .fill sh) ∨ ∃ x y sh, i = .pixel x y sh := by
  cases i with
  | fill sh => exact .inl ⟨sh, rfl⟩
  | pixel x y sh => exact .inr ⟨x, y, sh, rfl⟩
  | _ => exact h.elim

/-- Settles O57: the rights of each agent, from what its operations write. -/
theorem agentsKeepToTheirRights : Obligations.AgentsKeepToTheirRights := by
  intro s t hI h
  have hm := step_moves h
  rw [hm.turn_eq]
  refine ⟨fun g k hturn => ?_, fun g k hturn => ?_, fun us hturn => ?_⟩
  · obtain ⟨hkeeps, hlogical, hrun⟩ := hm.host_rights hI.takeTurn hturn
    obtain ⟨hd, hcadj, hstamps, hplace, hpump, hcopy, hcmd, hcreq, hqueue⟩ := (hostKeeps_takeTurn s t).1 hkeeps
    refine ⟨hd, hcadj, hstamps, hplace, hpump, hcopy, hcmd, hcreq, hqueue, ?_, ?_⟩
    · rcases hlogical with hl | ⟨i, v, hi, hf⟩
      · exact .inl ((sameLogical_takeTurn s t).1 hl)
      · rcases hi.fill_or_pixel with ⟨sh, rfl⟩ | ⟨x, y, sh, rfl⟩
        · exact .inr (.inl ⟨sh, v, hf⟩)
        · exact .inr (.inr ⟨x, y, sh, v, hf⟩)
    · rcases hrun with hr | ⟨i, v, rfl | rfl, hf⟩
      · exact .inl (hr.trans (takeTurn_runState s))
      · exact .inr (.inl ⟨v, hf⟩)
      · exact .inr (.inr ⟨v, hf⟩)
  · obtain ⟨hkeeps, hrights⟩ := hm.pump_rights hI.takeTurn hturn
    obtain ⟨hl, hq, hlen, hport, hin, htx, hcopy, hcmd, hcreq⟩ := (pumpKeeps_takeTurn s t).1 hkeeps
    exact ⟨hl, hq, hlen, hport, hin, htx, hcopy, hcmd, hcreq, (pumpRights_takeTurn s t).1 hrights⟩
  · rw [hm.timebase_eq hturn]
    simp [SameLogical, SameDerived, SameCells, SameRegisters, SameStamps, SamePlace, SameBus, SamePort]

/-! ### The bus (R50, R192, R195, R200) -/

/-- An event `who` may cause: a byte of its own, of HOST a command byte; an event of RES under `mayReset`. -/
def BusEvent.causedBy (who : Agent) (mayReset : Prop) : BusEvent → Prop
  | .byte dc _ sender => sender = who ∧ (who = .host → dc = false)
  | .res _ => mayReset

theorem BusEvent.causedBy_byte {who sender : Agent} {mayReset : Prop} {dc : Bool} {b : Byte} :
    (BusEvent.byte dc b sender).causedBy who mayReset ↔ sender = who ∧ (who = .host → dc = false) := Iff.rfl

theorem BusEvent.causedBy_res {who : Agent} {mayReset : Prop} {level : Bool} :
    (BusEvent.res level).causedBy who mayReset ↔ mayReset := Iff.rfl

/-- From `s` to `t` the agent `who` sends bytes; RES moves, and its events come, only under `mayReset`. -/
def Sends (who : Agent) (mayReset : Prop) (s t : State) : Prop :=
  (∃ sent, t.busLog = s.busLog ++ sent ∧ ∀ e ∈ sent, e.causedBy who mayReset) ∧ (t.res = s.res ∨ mayReset)

@[simp] theorem sends_takeTurn (who : Agent) (mayReset : Prop) (s t : State) :
    Sends who mayReset s.takeTurn t ↔ Sends who mayReset s t := by simp [Sends]

theorem Sends.mono {who : Agent} {p q : Prop} (h : Sends who p s t) (hpq : p → q) : Sends who q s t := by
  obtain ⟨⟨sent, hlog, hsent⟩, hres⟩ := h
  refine ⟨⟨sent, hlog, fun e he => ?_⟩, hres.imp_right hpq⟩
  cases e with
  | byte => exact hsent _ he
  | res => exact hpq (hsent _ he)

theorem sends_shifted {who : Agent} {mayReset : Prop} {f : Frame} (hwho : turnSender s.turn = who)
    (hdc : who = .host → f.getLsbD 8 = false) : Sends who mayReset s (s.shifted f) := by
  refine ⟨⟨_, rfl, fun e he => ?_⟩, .inl rfl⟩
  rw [List.mem_singleton.1 he]
  exact ⟨hwho, hdc⟩

theorem HostMove.res (h : HostMove s i t) : t.res = s.res ∨ i = .start := by
  cases h with
  | asksAndResponds h | asksAndReads h | asksAndPolls h => cases h <;> exact .inl rfl
  | brings | releases => exact .inr rfl
  | _ => exact .inl (by simp [State.txc])

theorem hostMove_sends (h : HostMove s i t) : Sends .host (i = .start) s t := by
  obtain ⟨sent, hlog, hsent⟩ := h.log
  refine ⟨⟨sent, hlog, fun e he => ?_⟩, h.res⟩
  rcases hsent e he with ⟨hi, level, rfl⟩ | ⟨b, rfl⟩
  · exact hi
  · exact ⟨rfl, fun _ => rfl⟩

theorem PumpMove.res (h : PumpMove s i t) : t.res = s.res ∨ i = .bringup := by
  cases h with
  | brings | bringEnds => exact .inr rfl
  | sendsAtOnce h | sends h => cases h <;> exact .inl (by simp [State.txc, State.txd])
  | maint h => cases h <;> exact .inl (by simp [State.txc])
  | _ => exact .inl rfl

theorem pumpMove_sends (h : PumpMove s i t) : Sends .pump (i = .bringup) s t := by
  obtain ⟨sent, hlog, hsent⟩ := h.log
  refine ⟨⟨sent, hlog, fun e he => ?_⟩, h.res⟩
  rcases hsent e he with ⟨hi, level, rfl⟩ | ⟨dc, b, rfl⟩
  · exact hi
  · exact ⟨rfl, nofun⟩

/-- In Stopped the pump is at the beginning of HALT. -/
theorem pumpPlaceOk_stopped {p : BitVec 4} {q : PumpPhase} {f : Fin 3} (h : pumpPlaceOk p q .stopped f = true) :
    p = Ph.halt ∧ q = .start := by
  unfold pumpPlaceOk at h
  split at h
  case h_15 h14 =>
    simp only [Bool.and_eq_true, beq_iff_eq] at h
    exact ⟨BitVec.eq_of_toNat_eq h14, h.1.1⟩
  all_goals simp [RunState.looping] at h

/-- Outside Starting, Running and Stopping the pump is at the beginning of IDLE or HALT. -/
theorem Inv.pump_idle (hI : Inv s) (hrun : s.runState = .waiting ∨ s.runState = .stopped) :
    (s.ph = Ph.idle ∨ s.ph = Ph.halt) ∧ s.pph = .start := by
  have hplace := hI.pumpPlace
  rcases hrun with hrun | hrun <;> rw [hrun] at hplace
  · exact (pumpPlaceOk_waiting hplace).imp_left .inl
  · exact (pumpPlaceOk_stopped hplace).imp_left .inr

/-- While the host has frames pending it is in Waiting or Stopped (R200). -/
theorem Inv.run_of_hostTx (hI : Inv s) (hfs : s.hostTx ≠ []) : s.runState = .waiting ∨ s.runState = .stopped := by
  have hsends := hI.hostBus hfs
  have hrun := hI.hostRun
  cases hhph : s.hph <;> simp_all [HostPhase.sends, hostRunOk]

/-- A host operation leaves the bus alone, or sends in Waiting or Stopped, and moves RES only in START in Waiting. -/
theorem HostMove.bus_of_inv (h : HostMove s i t) (hI : Inv s) (hop : s.hop = some i) :
    SameBus s t ∨ ((s.runState = .waiting ∨ s.runState = .stopped) ∧
      Sends .host (s.runState = .waiting ∧ i = .start) s t) := by
  have hrun := hI.hostRun
  rcases h.bus with hsame | ⟨rfl, here⟩ | ⟨rfl, here⟩
  · exact .inl hsame
  · have hwait := here.waiting_of_hostRun hrun
    exact .inr ⟨.inl hwait, (hostMove_sends h).mono fun hi => ⟨hwait, hi⟩⟩
  · have hstop : s.runState = .stopped := by simpa [hostRunOk, here] using hrun
    exact .inr ⟨.inr hstop, (hostMove_sends h).mono nofun⟩

/-- What a HOST turn does on the bus: nothing, or it sends, in Waiting or Stopped, and moves RES only in START. -/
theorem TurnMove.host_bus (h : TurnMove s t) (hI : Inv s) (hturn : s.turn = .host g k) :
    SameBus s t ∨ ((s.runState = .waiting ∨ s.runState = .stopped) ∧
      Sends .host (s.runState = .waiting ∧ ∃ v, fetch s = .run .start v) s t) := by
  rcases h.host_of_inv hI hturn with ⟨f, rest, hfs, rfl⟩ | ⟨v, i, hr⟩ | ⟨hport, _⟩
  · have hdc := hI.hostFrames f (hfs ▸ List.mem_cons_self)
    refine .inr ⟨hI.run_of_hostTx (by simp [hfs]), ?_⟩
    exact sends_shifted (s := { s with hostTx := rest }) (hturn ▸ rfl) fun _ => hdc
  · have hbus := hr.move.bus_of_inv hr.inv hr.hop
    rw [show v = _ from hr.port] at hbus
    refine hbus.imp_right fun ⟨hrun, hsends⟩ => ⟨hrun, hsends.mono fun ⟨hwait, hi⟩ => ⟨hwait, v, ?_⟩⟩
    rw [hr.fetched, hi]
  · exact .inl (by rw [show t = _ from hport]; simp [SameBus])

/-- What a PUMP turn does on the bus: nothing, or it sends, outside Waiting and Stopped, and moves RES only in BRINGUP. -/
theorem TurnMove.pump_bus (h : TurnMove s t) (hI : Inv s) (hturn : s.turn = .pump g k) :
    SameBus s t ∨ (¬ (s.runState = .waiting ∨ s.runState = .stopped) ∧
      Sends .pump (s.runState = .starting ∧ s.ph = 1#4) s t) := by
  rcases h.pump hturn with ⟨f, rest, hfs, rfl⟩ | ⟨i, hfs, hph, hm⟩
  · refine .inr ⟨fun hrun => ?_, ?_⟩
    · have hsends := hI.pumpBus (by simp [hfs])
      rw [(hI.pump_idle hrun).2] at hsends
      cases hsends
    · exact sends_shifted (s := { s with pumpTx := rest }) (hturn ▸ rfl) nofun
  · by_cases hrun : s.runState = .waiting ∨ s.runState = .stopped
    · refine .inl (hm.sameBus ?_)
      rcases (hI.pump_idle hrun).1 with hp | hp <;> rw [hp] at hph
      · exact .inl (Option.some.inj (decodePhase_encode hph)).symm
      · exact .inr (Option.some.inj (decodePhase_encode hph)).symm
    · refine .inr ⟨hrun, (pumpMove_sends hm).mono fun hi => ?_⟩
      rw [hi] at hph
      have hp : s.ph = Ph.bringup := (Code.phase.inj hph).symm
      have hplace := hI.pumpPlace
      rw [hp, pumpPlaceOk_bringup_iff] at hplace
      exact ⟨hplace.2.1, hp⟩

/-- What a turn does on the bus: nothing, or its agent sends, and then the run state makes it the owner (R200). -/
theorem TurnMove.bus (h : TurnMove s t) (hI : Inv s) :
    SameBus s t ∨
    ((∃ g k, s.turn = .host g k) ∧ (s.runState = .waiting ∨ s.runState = .stopped) ∧
      Sends .host (s.runState = .waiting ∧ ∃ v, fetch s = .run .start v) s t) ∨
    ((∃ g k, s.turn = .pump g k) ∧ ¬ (s.runState = .waiting ∨ s.runState = .stopped) ∧
      Sends .pump (s.runState = .starting ∧ s.ph = 1#4) s t) := by
  cases hturn : s.turn with
  | host g k => exact (h.host_bus hI hturn).imp_right fun hs => .inl ⟨⟨g, k, rfl⟩, hs⟩
  | pump g k => exact (h.pump_bus hI hturn).imp_right fun hs => .inr ⟨⟨g, k, rfl⟩, hs⟩
  | timebase us =>
    rw [h.timebase_eq hturn]
    exact .inl (by simp [SameBus])

/-- The bus is PUMP's in the run states in which it is not HOST's. -/
theorem RunState.pump_owns {r : RunState} (h : ¬ (r = .waiting ∨ r = .stopped)) :
    r = .starting ∨ r = .running ∨ r = .stopping := by
  cases r <;> simp_all

/-- Settles O58: a turn that touches the bus is its owner's, by run state. -/
theorem busIsOwnedByRunState : Obligations.BusIsOwnedByRunState := by
  intro s t hI h
  have hm := step_moves h
  have hbus := hm.bus hI.takeTurn
  simp only [takeTurn_runState, takeTurn_ph, sameBus_takeTurn, sends_takeTurn, ← hm.turn_eq] at hbus
  rcases hbus with hsame | ⟨hturn, hrun, ⟨sent, hlog, hsent⟩, hres⟩ | ⟨hturn, hrun, ⟨sent, hlog, hsent⟩, hres⟩
  · obtain ⟨_, _, _, _, hres, hlog, _⟩ := id hsame
    exact ⟨⟨[], by simp [hlog], nofun, nofun, nofun⟩, fun hne => absurd hres hne, fun _ _ _ _ _ => hsame,
      fun _ _ _ _ => hsame⟩
  · have hreset (hr : s.runState = .waiting ∧ Runs s .start) : BringsUp s t := .inl ⟨hr.1, hr.2, hturn⟩
    refine ⟨⟨sent, hlog, fun _ _ he => ⟨(BusEvent.causedBy_byte.1 (hsent _ he)).2 rfl, hrun, hturn⟩,
      fun _ _ he => absurd (BusEvent.causedBy_byte.1 (hsent _ he)).1 nofun,
      fun _ he => hreset (BusEvent.causedBy_res.1 (hsent _ he))⟩, fun hne => hreset (hres.resolve_left hne),
      fun _ _ _ hw hs => absurd hrun (not_or.2 ⟨hw, hs⟩), fun g k hpump => ?_⟩
    obtain ⟨_, _, hhost⟩ := hturn
    rw [hhost] at hpump
    cases hpump
  · have hreset (hr : s.runState = .starting ∧ s.ph = 1#4) : BringsUp s t := .inr ⟨hr.1, hr.2, hturn⟩
    refine ⟨⟨sent, hlog, fun _ _ he => absurd (BusEvent.causedBy_byte.1 (hsent _ he)).1 nofun,
      fun _ _ _ => ⟨RunState.pump_owns hrun, hturn⟩, fun _ he => hreset (BusEvent.causedBy_res.1 (hsent _ he))⟩,
      fun hne => hreset (hres.resolve_left hne), fun g k hhost => ?_, fun _ _ _ hout => absurd hout hrun⟩
    obtain ⟨_, _, hpump⟩ := hturn
    rw [hpump] at hhost
    cases hhost

end Turns
end Sys2Proof.Machine
end

section
/-! Turns run their operation, construction, reset, and the bus primitives. -/

namespace Sys2Proof.Machine

section Turns
variable {s : State} {i : Instr} {g : Grain} {k : Nat} {ts : List Turn}

/-- A scheduled turn is taken as it stands (log 1). -/
theorem takeTurn_of_sched {u : Turn} (h : s.sched = u :: ts) : s.takeTurn = { s with turn := u, sched := ts } := by
  unfold State.takeTurn
  rw [h]

theorem step_of_fetch_run {u : State} (h : fetch s.takeTurn = .run i u) : step s = exec i u := by
  rw [step, h]

theorem step_of_fetch_quiet {u : State} (h : fetch s.takeTurn = .quiet u) : step s = .next u := by
  rw [step, h]

/-- Settles O7: the turn is taken from the schedule, and `fetch` answers the operation the decoder reads. -/
theorem turnRunsItsOperation : Obligations.TurnRunsItsOperation := by
  refine ⟨?_, ?_, ?_, ?_, ?_, ?_, ?_⟩
  · intro s g k ts i ws rest hwf he hin hsched hfs hop
    refine step_of_fetch_run ?_
    simp [takeTurn_of_sched hsched, fetch, fetchHost, hfs, hop, hin, decodeHost_encode hwf he, State.accept]
  · intro s g k ts i hsched hfs hop
    refine step_of_fetch_run ?_
    simp [takeTurn_of_sched hsched, fetch, fetchHost, hfs, hop]
  · intro s g k ts hsched hfs hop hwait
    refine step_of_fetch_quiet ?_
    simp [takeTurn_of_sched hsched, fetch, fetchHost, hfs, hop, hwait]
  · intro s g k ts i he hsched hfs
    refine step_of_fetch_run ?_
    simp [takeTurn_of_sched hsched, fetch, fetchPump, hfs, decodePhase_encode he]
  · intro s g k ts i f rest he hsched hfs
    refine step_of_fetch_run ?_
    simp [takeTurn_of_sched hsched, fetch, fetchPump, hfs, decodeFrame_encode he]
  · intro s g k ts i f rest he hsched hfs
    refine step_of_fetch_run ?_
    simp [takeTurn_of_sched hsched, fetch, fetchHost, hfs, decodeFrame_encode he]
  · intro s us ts hsched
    refine step_of_fetch_quiet ?_
    simp [takeTurn_of_sched hsched, fetch, State.advance]

end Turns

/-! ### Construction and reset -/

/-- Settles O8: refused by ConfigOK, else the values of `State.initial`. -/
theorem constructionValues : Obligations.ConstructionValues := by
  refine ⟨fun c hc => by simp [State.construct, hc], fun c hc => ⟨State.initial c, by simp [State.construct, hc], ?_⟩⟩
  have hplanes : (State.initial c).planesOk = true := by simp [State.planesOk_iff, State.initial]
  have hrun : (State.initial c).runState = (if c.startMode = .delayed then .waiting else .starting) := by
    cases hs : c.startMode <;> simp [State.initial, hs]
  have hph : (State.initial c).ph = (if c.startMode = .delayed then 0#4 else 1#4) := by
    cases hs : c.startMode <;> simp [State.initial, hs]
  exact ⟨hrun, rfl, rfl, rfl, hplanes, rfl, rfl, List.length_replicate, hph, rfl, rfl, rfl, rfl, rfl, rfl, rfl, rfl, rfl⟩

/-- A machine constructed under a legal configuration meets the invariant, whatever the strap (R48, R221). -/
theorem inv_initial {c : Cfg} (hc : c.ok = true) : Inv (State.initial c) where
  cfgOk := hc
  planes := by simp [State.planesOk_iff, State.initial]
  queueSize := List.length_replicate
  queueLen := Nat.zero_le _
  pumpPlace := by cases hs : c.startMode <;> simp [State.initial, hs, pumpPlaceOk]
  pumpBus := fun h => absurd rfl h
  hostPlace := rfl
  hostRun := rfl
  hostBus := fun h => absurd rfl h
  hostFrames := nofun
  stopping h := by cases hs : c.startMode <;> simp [State.initial, hs] at h
  copyHeld := nofun
  creqHeld := nofun
  cmdHeld := nofun
  cmdFree := nofun
  waitUnderWay := fun h => absurd rfl h

/-- The installed configuration meets ConfigOK (R221; log 6, log 7). -/
theorem installed_ok : Config.installed.ok = true := by
  simp [Cfg.ok, Config.installed, Config.tabulate]

/-- Settles O9: construction under the installed configuration, and the base case of the invariant. -/
theorem resetMeetsInvariant : Obligations.ResetMeetsInvariant :=
  ⟨by simp [State.construct, installed_ok, State.reset], inv_initial installed_ok⟩

/-! ### The bus primitives (R191, R192, R193) -/

section Bus
variable {s : State}

theorem sckIdle_eq_sckRest (c : Cfg) : sckIdle c.clkMode = sckRest c := by
  cases h : c.clkMode <;> simp [sckIdle, sckRest, h]

theorem lastBit_eq_lastBitSent (c : Cfg) (b : Byte) : lastBit c.bitOrder b = lastBitSent c b := by
  cases h : c.bitOrder <;> simp [lastBit, serialBits, lastBitSent, h]

/-- The lines and the log after one byte, and what it leaves alone. -/
theorem sendByte_effect (dc : Bool) (b : Byte) (who : Agent) :
    let t := s.sendByte dc b who (s.moreToSend who dc)
    t.busLog = s.busLog ++ [.byte dc b who] ∧ t.dc = dc ∧ t.sdo = lastBitSent s.cfg b ∧ t.sck = sckRest s.cfg ∧
      (s.pendingTx who = [] → t.cs = (!s.cfg.csActive)) ∧
      (∀ f rest, s.pendingTx who = f :: rest → t.cs = if f.getLsbD 8 = dc then s.cfg.csActive else !s.cfg.csActive) ∧
      SamePlace s t ∧ SameStamps s t ∧ PumpFrame s t := by
  refine ⟨rfl, rfl, lastBit_eq_lastBitSent _ _, sckIdle_eq_sckRest _, fun hnil => ?_, fun f rest hf => ?_,
    by simp [SamePlace], by simp [SameStamps], ?_⟩
  · simp [State.sendByte, State.moreToSend, hnil]
  · simp [State.sendByte, State.moreToSend, hf]
  · simp [PumpFrame, SameLogical, SameDerived, SameCells, SameRegisters, SamePort, SameAround]

/-- Settles O45: TXC and TXD are `sendByte` at their level of DC; the eight places of a byte are looked up. -/
theorem busPrimitivesSendOneByte : Obligations.BusPrimitivesSendOneByte := by
  refine ⟨fun s b => ⟨⟨_, rfl, ?_⟩, ⟨_, rfl, ?_⟩⟩, fun b i hi => ?_⟩
  · obtain ⟨hlog, hdc, hsdo, hsck, hlast, hmore, hframe⟩ := sendByte_effect (s := s) false b (turnSender s.turn)
    refine ⟨hlog, hdc, hsdo, hsck, hlast, fun f rest hf => ?_, hframe⟩
    rw [hmore f rest hf]
    cases f.getLsbD 8 <;> simp
  · obtain ⟨hlog, hdc, hsdo, hsck, hlast, hmore, hframe⟩ := sendByte_effect (s := s) true b (turnSender s.turn)
    exact ⟨hlog, hdc, hsdo, hsck, hlast, hmore, hframe⟩
  · interval_cases i <;> exact ⟨rfl, rfl⟩

end Bus
end Sys2Proof.Machine
end

section
/-! Who reads `now`: operations commute with a change of `now`, but for PARK, TXPLANE, WAITPRE and WAITSUB (R46, R236). -/

namespace Sys2Proof.Machine

/-- `s` at another time. -/
@[simps] def State.atNow (s : State) (n : Nat) : State := { s with now := n }

/-- What an operation answers, at another time. -/
def atNow (r : Result) (n : Nat) : Result :=
  match r with
  | .next t => .next (t.atNow n)
  | .fault f => .fault f
  | .refused f => .refused f

section Now
variable (s : State) (n : Nat)

@[simp] theorem atNow_next (t : State) : atNow (.next t) n = .next (t.atNow n) := rfl

/-! ### The shared operations -/

theorem sendBurst_atNow (dc : Bool) (bs : List Byte) (who : Agent) :
    (s.atNow n).sendBurst dc bs who = (s.sendBurst dc bs who).atNow n := by
  unfold State.sendBurst
  split <;> rfl

theorem oweWrites_atNow (todo : List PlaneAct) : (s.atNow n).oweWrites todo = (s.oweWrites todo).atNow n := by
  unfold State.oweWrites
  split <;> rfl

theorem oweCompose_atNow (todo : List ComposeItem) : (s.atNow n).oweCompose todo = (s.oweCompose todo).atNow n := by
  unfold State.oweCompose
  split <;> rfl

theorem putLogical_atNow (p : LogicalPlane) (j : Nat) (v : Byte) :
    (s.atNow n).putLogical p j v = (s.putLogical p j v).atNow n := by
  cases p <;> rfl

theorem logical_atNow (p : LogicalPlane) : (s.atNow n).logical p = s.logical p := by cases p <;> rfl

theorem testRunning_atNow : (s.atNow n).testRunning = s.testRunning.atNow n := by
  unfold State.testRunning
  simp only [State.atNow_runState]
  split <;> rfl

theorem pollServed_atNow (served : Bool) : (s.atNow n).pollServed served = (s.pollServed served).atNow n := by
  unfold State.pollServed
  split <;> rfl

theorem bringUp_atNow (who : Agent) (items : List BringItem) :
    (s.atNow n).bringUp who items = ((s.bringUp who items).1.atNow n, (s.bringUp who items).2) := by
  induction items generalizing s with
  | nil => rfl
  | cons item rest ih =>
    cases item with
    | res level => exact ih (s.driveRes level)
    | wait us => rfl
    | cmd b => exact ih (s.txc [b] who)

theorem bringItem_atNow (who : Agent) (items : List BringItem) :
    (s.atNow n).bringItem who items = ((s.bringItem who items).1.atNow n, (s.bringItem who items).2) := by
  rcases bringItem_cases s who items with ⟨rfl, _⟩ | ⟨level, rest, rfl, _⟩ | ⟨us, rest, rfl, _⟩ | ⟨b, rest, rfl, _⟩
  · rfl
  · rfl
  · rfl
  · cases who <;> rfl

theorem bringTurn_atNow (who : Agent) (items : List BringItem) :
    (s.atNow n).bringTurn who items = ((s.bringTurn who items).1.atNow n, (s.bringTurn who items).2) := by
  unfold State.bringTurn
  simp only [State.atNow_turn]
  split
  · exact bringUp_atNow ..
  · exact bringItem_atNow ..

theorem startOwes_atNow (r : State × Option (List BringItem)) :
    State.startOwes (r.1.atNow n, r.2) = (State.startOwes r).atNow n := by
  obtain ⟨u, _ | items⟩ := r <;> rfl

theorem bringupOwes_atNow (r : State × Option (List BringItem)) :
    State.bringupOwes (r.1.atNow n, r.2) = (State.bringupOwes r).atNow n := by
  obtain ⟨u, _ | items⟩ := r <;> rfl

/-- An answer behind a check that does not read `now`. -/
theorem guarded_atNow (p : Bool) (t : State) (f : Fault) :
    (if p then .next (t.atNow n) else .fault f : Result) = atNow (if p then .next t else .fault f) n := by
  cases p <;> rfl

theorem planesOk_atNow : (s.atNow n).planesOk = s.planesOk := rfl

theorem writeStep_atNow (todo : List PlaneAct) : (s.atNow n).writeStep todo = atNow (s.writeStep todo) n := by
  unfold State.writeStep
  simp only [State.atNow_turn, planesOk_atNow, putLogical_atNow, oweWrites_atNow, logical_atNow]
  split
  · rfl
  · rfl
  · split <;> rfl

/-! ### Host operations -/

theorem execFill_atNow (sh : BitVec 2) : execFill sh (s.atNow n) = atNow (execFill sh s) n := by
  unfold execFill
  simp only [State.atNow_hph, State.atNow_turn, writeStep_atNow, oweWrites_atNow]
  split
  · split <;> rfl
  · rfl
  · rfl

theorem execPixel_atNow (x y : BitVec 12) (sh : BitVec 2) :
    execPixel x y sh (s.atNow n) = atNow (execPixel x y sh s) n := by
  unfold execPixel
  simp only [State.atNow_hph, State.atNow_turn, planesOk_atNow, writeStep_atNow, oweWrites_atNow]
  split
  · split
    · split
      · exact guarded_atNow n s.planesOk
          ((s.plotPixel (coordinate x).toNat (coordinate y).toNat sh).respond .done) .planeShape
      · rfl
    · rfl
  · rfl
  · rfl

theorem execShowSync_atNow : execShowSync (s.atNow n) = atNow (execShowSync s) n := by
  unfold execShowSync
  simp only [State.atNow_hph, State.atNow_turn, testRunning_atNow, pollServed_atNow]
  split
  · split
    · exact congrArg Host.Outcome.next (testRunning_atNow s.setCopy n)
    · rfl
  · rfl
  · rfl
  · rfl

theorem execShowAsync_atNow : execShowAsync (s.atNow n) = atNow (execShowAsync s) n := by
  unfold execShowAsync
  simp only [State.atNow_hph]
  split <;> rfl

theorem execContrast_atNow (lvl : Byte) : execContrast lvl (s.atNow n) = atNow (execContrast lvl s) n := by
  unfold execContrast
  simp only [State.atNow_hph]
  split <;> rfl

theorem execContrastSync_atNow (lvl : Byte) :
    execContrastSync lvl (s.atNow n) = atNow (execContrastSync lvl s) n := by
  unfold execContrastSync
  simp only [State.atNow_hph, State.atNow_turn, testRunning_atNow, pollServed_atNow]
  split
  · split
    · exact congrArg Host.Outcome.next (testRunning_atNow (s.setCreq lvl) n)
    · rfl
  · rfl
  · rfl
  · rfl

theorem execStart_atNow : execStart (s.atNow n) = atNow (execStart s) n := by
  unfold execStart
  simp only [State.atNow_hph, State.atNow_turn, State.atNow_cfg, State.atNow_runState, State.atNow_waitLeft,
    bringUp_atNow, bringTurn_atNow, startOwes_atNow]
  split
  · split
    · split <;> rfl
    · rfl
  · split <;> rfl
  · rfl

theorem execTeardown_atNow : execTeardown (s.atNow n) = atNow (execTeardown s) n := by
  unfold execTeardown
  simp only [State.atNow_hph, State.atNow_turn, State.atNow_cfg, State.atNow_runState]
  split
  · split
    · rfl
    · rfl
    · rfl
    · split <;> rfl
    · rfl
  · split <;> rfl
  · rfl
  · split <;> rfl
  · split
    · exact congrArg (fun u : State => Host.Outcome.next (u.respond .done))
        (sendBurst_atNow s n false s.cfg.restoreSeq .host)
    · rfl
  · rfl
  · rfl

theorem execCommand_atNow (bytes : List Byte) : execCommand bytes (s.atNow n) = atNow (execCommand bytes s) n := by
  unfold execCommand
  simp only [State.atNow_hph, State.atNow_turn, State.atNow_cfg, State.atNow_pendingCmd]
  split
  · split
    · split
      · rfl
      · split <;> rfl
    · rfl
  · rfl
  · rfl
  · rfl

theorem execRdstat_atNow : execRdstat (s.atNow n) = atNow (execRdstat s) n := by
  unfold execRdstat
  simp only [State.atNow_hph, State.atNow_turn]
  split
  · split <;> rfl
  · rfl
  · rfl
  · rfl
  · rfl

/-! ### Micro-operations -/

theorem sendThenGoto_atNow (bytes : List Byte) (p : BitVec 4) :
    (s.atNow n).sendThenGoto bytes p = atNow (s.sendThenGoto bytes p) n := by
  unfold State.sendThenGoto
  simp only [State.atNow_pph, State.atNow_turn]
  split
  · split
    · exact congrArg (fun u : State => Host.Outcome.next (u.goto p)) (sendBurst_atNow s n false bytes .pump)
    · rfl
  · rfl
  · rfl

theorem sendPlane_atNow (m : Memory) (p : BitVec 4) :
    (s.atNow n).sendPlane m p = atNow (s.sendPlane m p) n := by
  unfold State.sendPlane
  simp only [State.atNow_cfg, State.atNow_turn, planesOk_atNow, State.txc, State.txd, sendBurst_atNow]
  split <;> split <;> rfl

theorem execIdle_atNow : execIdle (s.atNow n) = atNow (execIdle s) n := by
  unfold execIdle
  simp only [State.atNow_runState]
  split <;> rfl

theorem execBringup_atNow : execBringup (s.atNow n) = atNow (execBringup s) n := by
  unfold execBringup
  simp only [State.atNow_pph, State.atNow_turn, State.atNow_cfg, State.atNow_waitLeft, bringUp_atNow, bringTurn_atNow,
    bringupOwes_atNow]
  split
  · split <;> rfl
  · split <;> rfl
  · rfl

theorem serveOne_atNow : (s.atNow n).serveOne = atNow s.serveOne n := by
  unfold State.serveOne
  simp only [State.atNow_copyPending, State.atNow_creq, State.atNow_cfg, State.atNow_pendingCmd, planesOk_atNow]
  split
  · exact guarded_atNow n s.planesOk (s.composeAll.clearCopy.goto Ph.waitsub) .planeShape
  · split
    · split <;> rfl
    · split
      · exact congrArg (fun u : State => Host.Outcome.next (u.clearCmd.goto Ph.waitsub))
          (sendBurst_atNow s n false s.queuedBytes .pump)
      · rfl

theorem composeStep_atNow (todo : List ComposeItem) : (s.atNow n).composeStep todo = atNow (s.composeStep todo) n := by
  unfold State.composeStep
  simp only [State.atNow_turn, State.atNow_la, State.atNow_lb, planesOk_atNow, oweCompose_atNow]
  split
  · rfl
  · split
    · split
      · exact congrArg Host.Outcome.next (oweCompose_atNow (s.putDerived _ _ _) n _)
      · rfl
    · rfl

theorem execMaint_atNow : execMaint (s.atNow n) = atNow (execMaint s) n := by
  unfold execMaint
  simp only [State.atNow_pph, State.atNow_turn, State.atNow_sf, State.atNow_copyPending, State.atNow_creq,
    State.atNow_cfg, State.atNow_pendingCmd, serveOne_atNow, composeStep_atNow, oweCompose_atNow]
  split
  · split
    · split
      · rfl
      · split <;> rfl
    · rfl
  · rfl
  · rfl
  · split <;> rfl
  · split <;> rfl
  · rfl
  · split <;> rfl
  · rfl
  · rfl

theorem execNext_atNow : execNext (s.atNow n) = atNow (execNext s) n := by
  unfold execNext
  simp only [State.atNow_sf, State.atNow_runState]
  split <;> rfl

theorem execTxfinal_atNow : execTxfinal (s.atNow n) = atNow (execTxfinal s) n := by
  unfold execTxfinal
  simp only [State.atNow_pph, State.atNow_dp0, sendPlane_atNow]
  split <;> rfl

/-! ### All operations -/

/-- The operations that read `now` (R46). -/
def ReadsTime : Instr → Prop
  | .park | .txplane | .waitpre | .waitsub => True
  | _ => False

/-- Any other operation does the same at any other time (R46). -/
theorem exec_atNow {i : Instr} (hi : ¬ ReadsTime i) : exec i (s.atNow n) = atNow (exec i s) n := by
  cases i with
  | fill sh => exact execFill_atNow s n sh
  | pixel x y sh => exact execPixel_atNow s n x y sh
  | showSync => exact execShowSync_atNow s n
  | showAsync => exact execShowAsync_atNow s n
  | contrast lvl => exact execContrast_atNow s n lvl
  | contrastSync lvl => exact execContrastSync_atNow s n lvl
  | start => exact execStart_atNow s n
  | teardown => exact execTeardown_atNow s n
  | command bytes => exact execCommand_atNow s n bytes
  | rdstat => exact execRdstat_atNow s n
  | idle => exact execIdle_atNow s n
  | bringup => exact execBringup_atNow s n
  | cadj1 => exact sendThenGoto_atNow s n _ _
  | resume => exact sendThenGoto_atNow s n _ _
  | cadj2 => exact sendThenGoto_atNow s n _ _
  | maint => exact execMaint_atNow s n
  | next => exact execNext_atNow s n
  | txfinal => exact execTxfinal_atNow s n
  | blank | setstop | halt | txc | txd => rfl
  | park | txplane | waitpre | waitsub => exact absurd trivial hi

/-! ### Turns -/

theorem takeTurn_atNow : (s.atNow n).takeTurn = s.takeTurn.atNow n := by
  unfold State.takeTurn
  simp only [State.atNow_sched]
  split <;> rfl

/-- What a turn comes to, at another time. -/
def Fetched.atNow (r : Fetched) (n : Nat) : Fetched :=
  match r with
  | .run i u => .run i (u.atNow n)
  | .quiet u => .quiet (u.atNow n)
  | .reserved => .reserved

theorem fetchHost_atNow : fetchHost (s.atNow n) = (fetchHost s).atNow n := by
  unfold fetchHost
  simp only [State.atNow_hostTx, State.atNow_hop, State.atNow_hostIn]
  split
  · rfl
  · split
    · rfl
    · split <;> rfl

theorem fetchPump_atNow : fetchPump (s.atNow n) = (fetchPump s).atNow n := by
  unfold fetchPump
  simp only [State.atNow_pumpTx, State.atNow_ph]
  split
  · rfl
  · split <;> rfl

/-- What HOST's and PUMP's turns fetch does not depend on the time (R46). -/
theorem fetch_atNow (h : ∀ us, s.turn ≠ .timebase us) : fetch (s.atNow n) = (fetch s).atNow n := by
  unfold fetch
  simp only [State.atNow_turn]
  split
  · exact fetchHost_atNow s n
  · exact fetchPump_atNow s n
  next us hturn => exact absurd hturn (h us)

theorem readsNow_of_run {i : Instr} {u : State} (hf : fetch s.takeTurn = .run i u) (hi : ReadsTime i) : ReadsNow s := by
  cases i with
  | park => exact .inl ⟨u, hf⟩
  | txplane => exact .inr (.inl ⟨u, hf⟩)
  | waitpre => exact .inr (.inr (.inl ⟨u, hf⟩))
  | waitsub => exact .inr (.inr (.inr ⟨u, hf⟩))
  | _ => exact hi.elim

/-- A turn of HOST or PUMP that runs none of the four operations does the same at any other time. -/
theorem step_atNow {t : State} (hstep : step s = .next t) (hturn : ∀ us, s.takeTurn.turn ≠ .timebase us)
    (hreads : ¬ ReadsNow s) : step (s.atNow n) = .next (t.atNow n) := by
  unfold step at hstep ⊢
  rw [takeTurn_atNow, fetch_atNow _ _ hturn]
  cases hf : fetch s.takeTurn with
  | run i u =>
    have hi : ¬ ReadsTime i := fun hi => hreads (readsNow_of_run s hf hi)
    rw [hf] at hstep
    simp only at hstep
    simp only [Fetched.atNow, exec_atNow u n hi, hstep, atNow_next]
  | quiet u =>
    rw [hf] at hstep
    cases hstep
    rfl
  | reserved => rw [hf] at hstep; cases hstep

end Now

/-- Only TIMEBASE moves `now` (R46, R236). -/
theorem TurnMove.now_eq {s t : State} (h : TurnMove s t) (hturn : ∀ us, s.turn ≠ .timebase us) : t.now = s.now := by
  cases h with
  | hostGoesOn _ _ _ _ h | pumpRuns _ _ _ _ h => exact exec_now h
  | hostAccepts _ _ _ _ _ h => exact (exec_now h :)
  | timebase hturn' => exact absurd hturn' (hturn _)
  | _ => rfl

/-- The four operations that read `now` are the pump's (R46). -/
theorem ReadsTime.layer {i : Instr} (h : ReadsTime i) : i.layer = .phase := by
  cases i with
  | park | txplane | waitpre | waitsub => rfl
  | _ => exact h.elim

theorem ReadsNow.run {s : State} (h : ReadsNow s) : ∃ i u, ReadsTime i ∧ fetch s.takeTurn = .run i u := by
  rcases h with ⟨u, hf⟩ | ⟨u, hf⟩ | ⟨u, hf⟩ | ⟨u, hf⟩
  · exact ⟨.park, u, trivial, hf⟩
  · exact ⟨.txplane, u, trivial, hf⟩
  · exact ⟨.waitpre, u, trivial, hf⟩
  · exact ⟨.waitsub, u, trivial, hf⟩

/-- What HOST's turn runs from a state of the invariant is a host operation or a bus primitive (R38, R105). -/
theorem Inv.host_layer {s u : State} {i : Instr} (hI : Inv s) (hf : fetchHost s = .run i u) : i.layer ≠ .phase := by
  rcases fetchHost_cases s with ⟨f, rest, _, e⟩ | ⟨_, j, hop, e⟩ | ⟨_, _, j, rest, hd, e⟩ | ⟨_, _, _, _, _, e⟩ |
    ⟨_, _, _, e⟩ <;> rw [e] at hf <;> cases hf
  · rcases decodeFrame_cases f with ⟨_, e⟩ | ⟨_, e⟩ <;> rw [e] <;> exact nofun
  · rw [hI.layer_of_hop hop]
    exact nofun
  · rw [(decodeHost_ok hd).1]
    exact nofun

/-- From a state of the invariant only PUMP's turns run an operation that reads `now` (R46). -/
theorem Inv.pump_of_readsNow {s : State} (hI : Inv s) (h : ReadsNow s) : ∃ g k, s.takeTurn.turn = .pump g k := by
  obtain ⟨i, u, hi, hf⟩ := h.run
  unfold fetch at hf
  split at hf
  · exact absurd hi.layer (hI.takeTurn.host_layer hf)
  next g k hturn => exact ⟨g, k, hturn⟩
  · cases hf

/-- Settles O60: TIMEBASE's turn is `advance`; any other turn is `step_atNow`'s; no host operation is one of the four. -/
theorem nowIsTimebasesAndReadByFourOperations : Obligations.NowIsTimebasesAndReadByFourOperations := by
  intro s t h
  have hm := step_moves h
  have hsame := hm.turn_eq
  refine ⟨fun us hturn => ?_, fun hturn => ⟨?_, fun hreads n => ?_⟩, fun hI hreads => ?_⟩
  · rw [hsame] at hturn
    obtain rfl := hm.timebase_eq hturn
    refine ⟨by simp, fun n => ?_⟩
    have hquiet : fetch ((s.atNow n).takeTurn) = .quiet ((s.takeTurn.advance us).atNow (n + us)) := by
      rw [takeTurn_atNow, fetch, State.atNow_turn, hturn]
      rfl
    exact step_of_fetch_quiet hquiet
  · rw [hsame] at hturn
    simpa using hm.now_eq hturn
  · rw [hsame] at hturn
    exact step_atNow s n h hturn hreads
  · rw [hsame]
    exact hI.pump_of_readsNow hreads

end Sys2Proof.Machine
end

section
/-! COMPOSE under way: what it has read, and what one more read of it does (R131, R69). -/

namespace Sys2Proof.Machine

section Compose
variable {s t : State} {todo : List ComposeItem} {it jt : ComposeItem} {k : Nat}

/-! ### Derived planes -/

theorem DerivedAt.congr {i : Nat} (hl : SameLogical s t) (hd : SameDerived s t) (h : DerivedAt s i) :
    DerivedAt t i := by
  obtain ⟨hla, hlb⟩ := hl
  obtain ⟨hd0, hd1, hd2⟩ := hd
  simpa [DerivedAt, hla, hlb, hd0, hd1, hd2] using h

theorem DerivedMatch.congr (hl : SameLogical s t) (hd : SameDerived s t) (h : DerivedMatch s) : DerivedMatch t :=
  fun i hi => (h i hi).congr hl hd

/-- COMPOSE as one step makes the derived planes match (R75, R131). -/
theorem derivedMatch_composeAll (s : State) : DerivedMatch s.composeAll := fun i hi => by
  simp [DerivedAt, Memory.byteAt_ofFn _ hi]

/-- The derived bytes of an index match once they are put from its two logical bytes (R131). -/
theorem derivedAt_putDerived_same {i : Nat} (hs : s.planesOk = true) (hi : i < planeBytes) :
    DerivedAt (s.putDerived i (s.la.byteAt i) (s.lb.byteAt i)) i := by
  obtain ⟨_, _, h0, h1, h2⟩ := (State.planesOk_iff s).1 hs
  simp [DerivedAt, Memory.byteAt_write_same, h0, h1, h2, hi]

/-- The derived bytes of the other indices stay. -/
theorem derivedAt_putDerived_other {i j : Nat} {a b : Byte} (hij : i ≠ j) (h : DerivedAt s j) :
    DerivedAt (s.putDerived i a b) j := by
  simpa [DerivedAt, Memory.byteAt_write_other _ _ hij] using h

/-! ### What a COMPOSE under way has read -/

/-- The bytes an index has read are the logical ones as they are now. -/
def ComposeItem.Current (s : State) (it : ComposeItem) : Prop :=
  (it.a = none ∨ it.a = some (s.la.byteAt it.idx)) ∧ (it.b = none ∨ it.b = some (s.lb.byteAt it.idx))

/-- With the indices `todo` owed, the other ones match already, and those owed have read the bytes as they are now. -/
def Tracks (s : State) (todo : List ComposeItem) : Prop :=
  (∀ i, i < planeBytes → (∀ it ∈ todo, it.idx ≠ i) → DerivedAt s i) ∧ ∀ it ∈ todo, it.Current s

theorem composeTracks_compose_iff (hs : s.pph = .compose todo) : ComposeTracks s ↔ Tracks s todo := by
  unfold ComposeTracks
  rw [hs]
  rfl

theorem composeTracks_clearCopy_iff (hs : s.pph = .clearCopy) : ComposeTracks s ↔ DerivedMatch s := by
  unfold ComposeTracks
  rw [hs]

/-- Outside COMPOSE there is nothing to track. -/
theorem composeTracks_of_not_held (hs : s.pph.holdsCopy = false) : ComposeTracks s := by
  unfold ComposeTracks
  split
  next h => simp [h, PumpPhase.holdsCopy] at hs
  next h => simp [h, PumpPhase.holdsCopy] at hs
  next => trivial

theorem Tracks.congr (hl : SameLogical s t) (hd : SameDerived s t) (h : Tracks s todo) : Tracks t todo := by
  refine ⟨fun i hi hout => (h.1 i hi hout).congr hl hd, fun it hit => ?_⟩
  simpa [ComposeItem.Current, hl.1, hl.2] using h.2 it hit

theorem ComposeTracks.congr (hl : SameLogical s t) (hd : SameDerived s t) (hp : t.pph = s.pph) (h : ComposeTracks s) :
    ComposeTracks t := by
  cases hs : s.pph with
  | compose todo =>
    rw [composeTracks_compose_iff hs] at h
    exact (composeTracks_compose_iff (hp.trans hs)).2 (h.congr hl hd)
  | clearCopy =>
    rw [composeTracks_clearCopy_iff hs] at h
    exact (composeTracks_clearCopy_iff (hp.trans hs)).2 (h.congr hl hd)
  | _ => exact composeTracks_of_not_held (by rw [hp, hs]; rfl)

/-- At its beginning COMPOSE owes every index and has read nothing. -/
theorem tracks_composeItems (s : State) : Tracks s composeItems := by
  refine ⟨fun i hi hout => absurd rfl (hout ⟨i, none, none⟩ ?_), fun it hit => ?_⟩
  · simpa [composeItems] using hi
  · simp only [composeItems, List.mem_map] at hit
    obtain ⟨i, _, rfl⟩ := hit
    exact ⟨.inl rfl, .inl rfl⟩

/-- With the indices `todo` left a COMPOSE tracks at the place it goes on at; with none left all of them match. -/
theorem Tracks.oweCompose (h : Tracks s todo) : ComposeTracks (s.oweCompose todo) := by
  by_cases hnil : todo = []
  · rw [hnil, oweCompose_nil, composeTracks_clearCopy_iff rfl]
    exact fun i hi => (h.1 i hi (by simp [hnil])).congr ⟨rfl, rfl⟩ ⟨rfl, rfl, rfl⟩
  · rw [oweCompose_of_ne hnil, composeTracks_compose_iff rfl]
    exact h.congr ⟨rfl, rfl⟩ ⟨rfl, rfl, rfl⟩

/-! ### One read -/

/-- The index `it` becomes `jt` by one more read of the logical planes (R131). -/
def ComposeItem.Reads (s : State) (it jt : ComposeItem) : Prop :=
  ∃ aFirst, jt = it.readOne aFirst (s.la.byteAt it.idx) (s.lb.byteAt it.idx)

theorem ComposeItem.Reads.idx (h : it.Reads s jt) : jt.idx = it.idx := by
  obtain ⟨aFirst, rfl⟩ := h
  exact readOne_idx ..

/-- One more read takes a byte as it is now. -/
theorem ComposeItem.Reads.current (h : it.Reads s jt) (hit : it.Current s) : jt.Current s := by
  obtain ⟨aFirst, rfl⟩ := h
  unfold ComposeItem.readOne
  split
  · split
    · exact ⟨.inr rfl, hit.2⟩
    · exact ⟨hit.1, .inr rfl⟩
  · exact ⟨.inr rfl, hit.2⟩
  · exact ⟨hit.1, .inr rfl⟩

/-- A read of a COMPOSE that owes indices is of one of them: with both its bytes read the index is put and leaves the
list, else it stays owed (R131). -/
theorem composeStep_reads (hne : todo ≠ []) (hs : s.planesOk = true) :
    ∃ k it jt, todo[k]? = some it ∧ it.Reads s jt ∧
      ((∃ a b, jt.a = some a ∧ jt.b = some b ∧
          s.composeStep todo = .next ((s.putDerived it.idx a b).oweCompose (todo.eraseIdx k))) ∨
        ((jt.a = none ∨ jt.b = none) ∧ s.composeStep todo = .next (s.oweCompose (todo.set k jt)))) := by
  have hk := List.getElem?_eq_getElem (Nat.mod_lt (turnPick s.turn) (List.length_pos_iff.2 hne))
  refine ⟨_, _, _, hk, ⟨turnPick s.turn / todo.length % 2 == 0, rfl⟩, ?_⟩
  unfold State.composeStep
  simp only [hk, hs, if_true]
  split
  next ha hb => exact .inl ⟨_, _, ha, hb, rfl⟩
  next hnot =>
    refine .inr ⟨?_, rfl⟩
    by_contra hboth
    obtain ⟨ha, hb⟩ := not_or.1 hboth
    obtain ⟨a, ha⟩ := Option.ne_none_iff_exists'.1 ha
    obtain ⟨b, hb⟩ := Option.ne_none_iff_exists'.1 hb
    exact hnot a b ha hb

/-- An index with both bytes read leaves the list with its derived bytes put. -/
theorem Tracks.put {a b : Byte} (h : Tracks s todo) (hs : s.planesOk = true) (hk : todo[k]? = some it)
    (hidx : it.idx < planeBytes) (ha : a = s.la.byteAt it.idx) (hb : b = s.lb.byteAt it.idx) :
    Tracks (s.putDerived it.idx a b) (todo.eraseIdx k) := by
  subst ha hb
  obtain ⟨hmatch, hcurrent⟩ := h
  obtain ⟨hlt, hget⟩ := List.getElem?_eq_some_iff.1 hk
  refine ⟨fun i hi hout => ?_, fun mt hmt => hcurrent mt (List.mem_of_mem_eraseIdx hmt)⟩
  by_cases hii : it.idx = i
  · rw [← hii]
    exact derivedAt_putDerived_same hs hidx
  · refine derivedAt_putDerived_other hii (hmatch i hi fun mt hmt => ?_)
    obtain ⟨j, hj, rfl⟩ := List.mem_iff_getElem.1 hmt
    by_cases hjk : j = k
    · subst hjk
      rwa [hget]
    · exact hout _ (List.mem_eraseIdx_iff_getElem.2 ⟨j, hj, hjk, rfl⟩)

/-- An index with a byte left to read stays in the list. -/
theorem Tracks.set (h : Tracks s todo) (hk : todo[k]? = some it) (hidx : jt.idx = it.idx) (hjt : jt.Current s) :
    Tracks s (todo.set k jt) := by
  obtain ⟨hmatch, hcurrent⟩ := h
  obtain ⟨hlt, hget⟩ := List.getElem?_eq_some_iff.1 hk
  refine ⟨fun i hi hout => hmatch i hi fun mt hmt => ?_, fun mt hmt => ?_⟩
  · obtain ⟨j, hj, rfl⟩ := List.mem_iff_getElem.1 hmt
    by_cases hjk : j = k
    · subst hjk
      rw [hget, ← hidx]
      exact hout jt (List.mem_set hlt jt)
    · exact hout _ (List.mem_iff_getElem.2 ⟨j, by simpa using hj, by simp [Ne.symm hjk]⟩)
  · rcases List.mem_or_eq_of_mem_set hmt with hmt | rfl
    · exact hcurrent mt hmt
    · exact hjt

/-- One read keeps track (R131). -/
theorem composeStep_tracks (h : Tracks s todo) (hs : s.planesOk = true)
    (hplace : (PumpPhase.compose todo).inMaint = true) (hstep : s.composeStep todo = .next t) : ComposeTracks t := by
  obtain ⟨hne, hidx⟩ := (inMaint_compose_iff todo).1 hplace
  obtain ⟨k, it, jt, hk, hreads, ⟨a, b, ha, hb, e⟩ | ⟨_, e⟩⟩ := composeStep_reads hne hs
  all_goals
    rw [e] at hstep
    cases hstep
    have hmem := List.mem_of_getElem? hk
    have hjt := hreads.current (h.2 it hmem)
  · refine (h.put hs hk (hidx it hmem) ?_ ?_).oweCompose
    · simpa [ha, hreads.idx] using hjt.1
    · simpa [hb, hreads.idx] using hjt.2
  · exact (h.set hk hreads.idx hjt).oweCompose

end Compose
end Sys2Proof.Machine
end

section
/-! The guarantee of SHOW: from its issue to its response its request is tracked (R75, R143, R144). -/

namespace Sys2Proof.Machine

section Show
variable {s t : State}

/-! ### The copy request -/

/-- The copy request is unserved and any COMPOSE that serves it works on the planes as they are, or it is served and the
derived planes match (R75). -/
def CopyTracked (s : State) : Prop :=
  (s.copyPending = true ∧ ComposeTracks s) ∨ (s.copyPending = false ∧ DerivedMatch s)

theorem showGuard_iff (s : State) :
    ShowGuard s ↔ Inv s ∧ s.hop = some .showSync ∧ s.hph.requested ∧ CopyTracked s := Iff.rfl

theorem CopyTracked.congr (h : CopyTracked s) (hl : SameLogical s t) (hd : SameDerived s t)
    (hc : t.copyPending = s.copyPending) (hp : t.pph = s.pph) : CopyTracked t := by
  rcases h with ⟨hreq, htrack⟩ | ⟨hfree, hmatch⟩
  · exact .inl ⟨hc.trans hreq, htrack.congr hl hd hp⟩
  · exact .inr ⟨hc.trans hfree, hmatch.congr hl hd⟩

/-- A turn that leaves the request and the derived planes, and stands outside COMPOSE, keeps track. -/
theorem CopyTracked.of_not_held (h : CopyTracked s) (hl : SameLogical s t) (hd : SameDerived s t)
    (hc : t.copyPending = s.copyPending) (hp : t.pph.holdsCopy = false) : CopyTracked t := by
  rcases h with ⟨hreq, _⟩ | ⟨hfree, hmatch⟩
  · exact .inl ⟨hc.trans hreq, composeTracks_of_not_held hp⟩
  · exact .inr ⟨hc.trans hfree, hmatch.congr hl hd⟩

/-- MAINT keeps track of the copy request: a COMPOSE that begins tracks, one under way goes on, and one that has
finished clears the request with the derived planes matching (R131, R169). -/
theorem execMaint_copyTracked (hI : Inv s) (hph : s.ph = Ph.maint) (h : CopyTracked s) (hexec : execMaint s = .next t) :
    CopyTracked t := by
  have held (hheld : s.pph.holdsCopy = true) : s.copyPending = true ∧ ComposeTracks s := by
    have hreq := hI.copyHeld hheld
    exact h.resolve_right fun hfree => by simp [hfree.1] at hreq
  have reads {todo : List ComposeItem} (here : s.pph = .compose todo) : CopyTracked t := by
    obtain ⟨hreq, htrack⟩ := held (by rw [here]; rfl)
    have hplace : (PumpPhase.compose todo).inMaint = true := by
      have hplace := hI.pumpPlace
      rw [hph, pumpPlaceOk_maint_iff, here] at hplace
      exact (hplace.1.resolve_left nofun).1
    have hstep : s.composeStep todo = .next t := by simpa [execMaint, here] using hexec
    have hsame : t.copyPending = s.copyPending := by
      rcases composeStep_cases hstep with ⟨_, rfl⟩ | ⟨_, _, _, ⟨_, _, _, _, rfl⟩ | rfl⟩ <;> simp
    refine .inl ⟨hsame.trans hreq, ?_⟩
    exact composeStep_tracks ((composeTracks_compose_iff here).1 htrack) hI.planes hplace hstep
  cases execMaint_moves hexec with
  | copyAtOnce => exact .inr ⟨rfl, (derivedMatch_composeAll s).congr ⟨rfl, rfl⟩ ⟨rfl, rfl, rfl⟩⟩
  | composes _ _ hreq => exact .inl ⟨hreq, (composeTracks_compose_iff rfl).2 (tracks_composeItems _)⟩
  | composeReads here | composePuts here | composed here => exact reads here
  | copyServed here =>
    obtain ⟨_, htrack⟩ := held (by rw [here]; rfl)
    exact .inr ⟨rfl, ((composeTracks_clearCopy_iff here).1 htrack).congr ⟨rfl, rfl⟩ ⟨rfl, rfl, rfl⟩⟩
  | cmdAtOnce =>
    exact h.of_not_held (by simp [SameLogical, State.txc]) (by simp [SameDerived, State.txc]) (by simp [State.txc]) rfl
  | _ => exact h.of_not_held ⟨rfl, rfl⟩ ⟨rfl, rfl, rfl⟩ rfl rfl

/-- But for BLANK, which runs in Stopping only, every micro-operation but MAINT leaves the request and the derived
planes, and stands outside COMPOSE. -/
theorem PumpMove.copyTracked {i : Instr} (hm : PumpMove s i t) (hi : i ≠ .maint) (hblank : i ≠ .blank)
    (h : CopyTracked s) : CopyTracked t := by
  have hd : SameDerived s t := by
    rcases hm.served with ⟨_, hd⟩ | ⟨hi', _⟩ | ⟨hi', _⟩
    · exact hd
    · exact absurd hi' hi
    · exact absurd hi' hblank
  have hl := hm.writes.logical
  cases hm with
  | stays => exact h
  | maint => exact absurd rfl hi
  | brings hb => exact h.of_not_held hl hd hb.cells.2.1 rfl
  | bringEnds hb => exact h.of_not_held hl hd hb.cells.2.1 rfl
  | sendsAtOnce hs => exact h.of_not_held hl hd (by cases hs <;> simp [State.txc, State.txd]) rfl
  | sends hs => exact h.of_not_held hl hd (by cases hs <;> rfl) rfl
  | _ => exact h.of_not_held hl hd rfl rfl

/-- A micro-operation keeps track of the copy request; outside Stopping it is not BLANK. -/
theorem exec_copyTracked {i : Instr} (hI : Inv s) (hph : encode i = .phase s.ph) (hrun : s.runState ≠ .stopping)
    (h : CopyTracked s) (hexec : exec i s = .next t) : CopyTracked t := by
  by_cases hi : i = .maint
  · subst hi
    exact execMaint_copyTracked hI (Code.phase.inj hph).symm h hexec
  · refine (exec_pump_moves (layer_of_encode_phase hph) hexec).copyTracked hi ?_ h
    rintro rfl
    have hplace := hI.pumpPlace
    rw [← Code.phase.inj hph, pumpPlaceOk_blank_iff] at hplace
    exact hrun hplace.2.1

/-! ### SHOW and its guard -/

/-- While SHOW waits TEARDOWN is not in flight, and RUNSTATE is not Stopping (R231). -/
theorem ShowGuard.runState_ne (h : ShowGuard s) : s.runState ≠ .stopping := fun hrun => by
  obtain ⟨hI, hop, _⟩ := (showGuard_iff s).1 h
  simpa [hop] using (hI.stopping hrun).1

/-- SHOW's response, with what it guarantees (R75, R143, R144). -/
def ShowResponds (s t : State) : Prop :=
  t.hop = none ∧ t.responses = s.responses ++ [.done] ∧
    ((s.hph = .readRun ∧ s.runState ≠ .running) ∨ (t.copyPending = false ∧ DerivedMatch t))

/-- Outside START's bring-up and TEARDOWN's restore the host has no frame on the bus (R200). -/
theorem Inv.hostTx_of_not_sends (hI : Inv s) (h : s.hph.sends = false) : s.hostTx = [] := by
  by_contra hne
  simp [hI.hostBus hne] at h

theorem HostPhase.requested.not_sends {q : HostPhase} (h : q.requested) : q.sends = false := by
  rcases h with rfl | rfl <;> rfl

/-- A turn of SHOW under its guard tests RUNSTATE or polls (R143). -/
theorem ShowGuard.show_turn (h : ShowGuard s) (hexec : execShowSync s = .next t) :
    SameLogical s t ∧ (ShowGuard t ∨ ShowResponds s t) := by
  obtain ⟨hI, hop, hreq, htrack⟩ := (showGuard_iff s).1 h
  have hIt : Inv t := (execShowSync_moves hexec).keeps_inv hI hop (hI.hostTx_of_not_sends hreq.not_sends)
  rcases hreq with here | here <;> simp only [execShowSync, here] at hexec <;> cases hexec
  · refine ⟨⟨by simp, by simp⟩, ?_⟩
    by_cases hrun : s.runState = .running
    · rw [State.testRunning, if_pos hrun] at hIt ⊢
      exact .inl ⟨hIt, hop, .inr rfl, htrack.congr ⟨rfl, rfl⟩ ⟨rfl, rfl, rfl⟩ rfl rfl⟩
    · rw [State.testRunning, if_neg hrun]
      exact .inr ⟨rfl, rfl, .inl ⟨here, hrun⟩⟩
  · refine ⟨⟨by simp, by simp⟩, ?_⟩
    rcases htrack with ⟨hpend, htrack⟩ | ⟨hfree, hmatch⟩
    · rw [State.pollServed, hpend]
      exact .inl h
    · rw [State.pollServed, hfree]
      exact .inr ⟨rfl, rfl, .inr ⟨hfree, hmatch.congr ⟨rfl, rfl⟩ ⟨rfl, rfl, rfl⟩⟩⟩

/-- A turn of another agent that keeps track of the request keeps SHOW's guard. -/
theorem ShowGuard.of_port (h : ShowGuard s) (hI : Inv t) (hport : SamePort s t) (htrack : CopyTracked t) :
    ShowGuard t := by
  obtain ⟨_, hop, hreq, _⟩ := (showGuard_iff s).1 h
  obtain ⟨hhop, hhph, _⟩ := hport
  exact ⟨hI, hhop.trans hop, by rwa [hhph], htrack⟩

/-- Every turn under SHOW's guard leaves the logical planes, and keeps the guard or is SHOW's response. -/
theorem ShowGuard.turn (h : ShowGuard s) (hm : TurnMove s t) : SameLogical s t ∧ (ShowGuard t ∨ ShowResponds s t) := by
  obtain ⟨hI, hop, hreq, htrack⟩ := (showGuard_iff s).1 h
  have hIt := hm.keeps_inv hI
  cases hm with
  | hostShifts _ hfs => simp [hI.hostTx_of_not_sends hreq.not_sends] at hfs
  | hostGoesOn _ _ hop' _ hexec =>
    obtain rfl := Option.some.inj (hop'.symm.trans hop)
    exact h.show_turn hexec
  | hostAccepts _ _ hop' | hostRefuses _ _ _ hop' => simp [hop] at hop'
  | hostIdles => exact ⟨⟨rfl, rfl⟩, .inl h⟩
  | pumpShifts | timebase =>
    exact ⟨⟨rfl, rfl⟩, .inl (h.of_port hIt ⟨rfl, rfl, rfl⟩ (htrack.congr ⟨rfl, rfl⟩ ⟨rfl, rfl, rfl⟩ rfl rfl))⟩
  | pumpRuns _ _ hph _ hexec =>
    have hw := (exec_pump_moves (layer_of_encode_phase hph) hexec).writes
    exact ⟨hw.logical, .inl (h.of_port hIt hw.port (exec_copyTracked hI hph h.runState_ne htrack hexec))⟩

/-- The issue of SHOW over a served request comes under its guard: no COMPOSE is under way (R143). -/
theorem showGuard_of_issue {q : HostPhase} (hI : Inv s) (hop : s.hop = some .showSync) (here : s.hph = .issue)
    (hfree : s.copyPending = false) (hq : q.requested) (hexec : execShowSync s = .next (s.setCopy.hostAt q)) :
    ShowGuard (s.setCopy.hostAt q) := by
  have hIt := (execShowSync_moves hexec).keeps_inv hI hop (hI.hostTx_of_not_sends (by rw [here]; rfl))
  refine ⟨hIt, hop, hq, .inl ⟨rfl, composeTracks_of_not_held ?_⟩⟩
  by_contra hheld
  simpa [hfree] using hI.copyHeld (by simpa using hheld)

/-- Settles O51: the issue comes under the guard, and each kind of turn keeps it or is the response. -/
theorem showGuaranteeHoldsUntilResponse : Obligations.ShowGuaranteeHoldsUntilResponse := by
  refine ⟨fun s hI hop here hfree hrun => ?_, fun s t h hstep => ?_⟩
  · cases hg : turnGrain s.turn with
    | atOnce =>
      have hexec : execShowSync s = .next (s.setCopy.hostAt .poll) := by
        simp [execShowSync, here, hg, State.testRunning, hrun hg]
      exact ⟨_, hexec, showGuard_of_issue hI hop here hfree (.inr rfl) hexec, rfl, rfl⟩
    | stepwise =>
      have hexec : execShowSync s = .next (s.setCopy.hostAt .readRun) := by simp [execShowSync, here, hg]
      exact ⟨_, hexec, showGuard_of_issue hI hop here hfree (.inl rfl) hexec, rfl, rfl⟩
  · have hguard : ShowGuard s.takeTurn := by
      obtain ⟨hI, hop, hreq, htrack⟩ := (showGuard_iff s).1 h
      exact h.of_port hI.takeTurn (by simp [SamePort])
        (htrack.congr (by simp [SameLogical]) (by simp [SameDerived]) (by simp) (by simp))
    simpa [ShowResponds] using hguard.turn (step_moves hstep)

end Show
end Sys2Proof.Machine
end

section
/-! Operations taken one step in a turn, with no other agent's turn between: a run is followed by the number of steps
left (R69). COMPOSE's reads, in any order. -/

namespace Sys2Proof.Machine

/-! ### Counting the steps left -/

section Count
variable {α : Type} {f : α → Nat} {l : List α} {k : Nat} {a b : α}

/-- What an element counts leaves the total with it. -/
theorem sum_map_eraseIdx (h : l[k]? = some a) : f a + ((l.eraseIdx k).map f).sum = (l.map f).sum := by
  obtain ⟨hlt, rfl⟩ := List.getElem?_eq_some_iff.1 h
  have hsum := List.CommMonoid.add_sum_eraseIdx (l := l.map f) (i := k) (by simpa using hlt)
  rwa [List.getElem_map, List.eraseIdx_map] at hsum

/-- What replaces an element counts in its place. -/
theorem sum_map_set (h : l[k]? = some a) : f a + ((l.set k b).map f).sum = f b + (l.map f).sum := by
  have hlt := (List.getElem?_eq_some_iff.1 h).1
  have hset := sum_map_eraseIdx (f := f) (l := l.set k b) (k := k) (a := b) (by simp [hlt])
  rw [List.eraseIdx_set_eq] at hset
  have := sum_map_eraseIdx (f := f) h
  omega

end Count

theorem runTurns_cons {i : Instr} {mk : Nat → Turn} {k : Nat} {ks : List Nat} {s t : State}
    (h : exec i { s with turn := mk k } = .next t) : runTurns i mk (k :: ks) s = runTurns i mk ks t := by
  rw [runTurns, h]

/-- Where each turn takes one of the steps left, as many turns as steps come to the end. -/
theorem runTurns_ends {i : Instr} {mk : Nat → Turn} {Left : Nat → State → Prop}
    (hturn : ∀ n u k, Left (n + 1) u → ∃ t, exec i { u with turn := mk k } = .next t ∧ Left n t)
    (picks : List Nat) {u : State} (h : Left picks.length u) :
    ∃ t, runTurns i mk picks u = .next t ∧ Left 0 t := by
  induction picks generalizing u with
  | nil => exact ⟨u, rfl, h⟩
  | cons k ks ih =>
    obtain ⟨t, hexec, ht⟩ := hturn ks.length u k h
    rw [runTurns_cons hexec]
    exact ih ht

/-! ### COMPOSE read by read -/

/-- The reads an index still owes (R131). -/
def ComposeItem.owed (it : ComposeItem) : Nat := it.a.isNone.toNat + it.b.isNone.toNat

/-- The reads a COMPOSE still owes. -/
def readsOwed (todo : List ComposeItem) : Nat := (todo.map ComposeItem.owed).sum

section Compose
variable {s u : State} {it jt : ComposeItem} {n : Nat}

theorem ComposeItem.Reads.owed (h : it.Reads s jt) (hit : it.owed ≠ 0) : jt.owed + 1 = it.owed := by
  obtain ⟨aFirst, rfl⟩ := h
  unfold ComposeItem.readOne
  split
  next ha hb => split <;> simp [ComposeItem.owed, ha, hb]
  next ha hb => simp [ComposeItem.owed, ha, hb]
  next ha =>
    cases hb : it.b with
    | none => simp [ComposeItem.owed, ha, hb]
    | some b => simp [ComposeItem.owed, ha, hb] at hit

theorem readsOwed_composeItems : readsOwed composeItems = 720 := by
  have twice (l : List Nat) : readsOwed (l.map fun i => ⟨i, none, none⟩) = l.length * 2 := by
    simp [readsOwed, Function.comp_def, ComposeItem.owed]
  rw [composeItems, twice, List.length_range]
  rfl

/-- COMPOSE changes nothing where the derived planes match (R131). -/
theorem composeAll_of_derivedMatch (hs : s.planesOk = true) (h : DerivedMatch s) : s.composeAll = s := by
  obtain ⟨_, _, wf0, wf1, wf2⟩ := (State.planesOk_iff s).1 hs
  have h0 : s.composeAll.dp0 = s.dp0 :=
    Memory.ext_byteAt (Memory.wf_ofFn _) wf0 fun i hi => (Memory.byteAt_ofFn _ hi).trans (h i hi).1.symm
  have h1 : s.composeAll.dp1 = s.dp1 :=
    Memory.ext_byteAt (Memory.wf_ofFn _) wf1 fun i hi => (Memory.byteAt_ofFn _ hi).trans (h i hi).2.1.symm
  have h2 : s.composeAll.dp2 = s.dp2 :=
    Memory.ext_byteAt (Memory.wf_ofFn _) wf2 fun i hi => (Memory.byteAt_ofFn _ hi).trans (h i hi).2.2.symm
  change { s with dp0 := s.composeAll.dp0, dp1 := s.composeAll.dp1, dp2 := s.composeAll.dp2 } = s
  rw [h0, h1, h2]

/-- From `s` a COMPOSE has come to `u` with `n` reads owed, and changed nothing but the derived planes, its place and
the turn: what COMPOSE in one step would leave is the same (R131). -/
def ComposeOwes (s : State) (n : Nat) (u : State) : Prop :=
  ∃ v todo, u = v.oweCompose todo ∧
    v.composeAll = { s.composeAll with pph := v.pph, turn := v.turn } ∧ v.planesOk = true ∧
    Tracks v todo ∧ (∀ it ∈ todo, it.idx < planeBytes ∧ it.owed ≠ 0) ∧ readsOwed todo = n

/-- A read of a COMPOSE under way takes one of the reads it owes. -/
theorem ComposeOwes.read (h : ComposeOwes s (n + 1) u) (k : Nat) :
    ∃ t, exec .maint { u with turn := .pump .stepwise k } = .next t ∧ ComposeOwes s n t := by
  obtain ⟨v, todo, rfl, hv, hplanes, htracks, hitems, hn⟩ := h
  have hne : todo ≠ [] := by
    rintro rfl
    simp [readsOwed] at hn
  rw [oweCompose_of_ne hne]
  set w : State := { v.pumpAt (.compose todo) with turn := .pump .stepwise k }
  have hwtracks : Tracks w todo := htracks.congr ⟨rfl, rfl⟩ ⟨rfl, rfl, rfl⟩
  have hwframe : w.composeAll = { s.composeAll with pph := w.pph, turn := w.turn } := by
    change { v.composeAll with pph := w.pph, turn := w.turn } = _
    rw [hv]
  have hexec : exec .maint w = w.composeStep todo := rfl
  rw [hexec]
  obtain ⟨j, it, jt, hj, hreads, hcase⟩ := composeStep_reads (s := w) hne hplanes
  have hmem := List.mem_of_getElem? hj
  obtain ⟨hidx, howed⟩ := hitems it hmem
  have hone := hreads.owed howed
  have hjt := hreads.current (hwtracks.2 it hmem)
  rcases hcase with ⟨a, b, ha, hb, e⟩ | ⟨hnot, e⟩
  · refine ⟨_, e, w.putDerived it.idx a b, todo.eraseIdx j, rfl, hwframe, planesOk_putDerived _ _ _ hplanes, ?_, ?_, ?_⟩
    · refine hwtracks.put hplanes hj hidx ?_ ?_
      · simpa [ha, hreads.idx] using hjt.1
      · simpa [hb, hreads.idx] using hjt.2
    · exact fun mt hmt => hitems mt (List.mem_of_mem_eraseIdx hmt)
    · have hsum := sum_map_eraseIdx (f := ComposeItem.owed) hj
      have hzero : jt.owed = 0 := by simp [ComposeItem.owed, ha, hb]
      unfold readsOwed at hn ⊢
      omega
  · refine ⟨_, e, w, todo.set j jt, rfl, hwframe, hplanes, hwtracks.set hj hreads.idx hjt, fun mt hmt => ?_, ?_⟩
    · rcases List.mem_or_eq_of_mem_set hmt with hmt | rfl
      · exact hitems mt hmt
      · rw [hreads.idx]
        refine ⟨hidx, ?_⟩
        rcases hnot with h | h <;> simp [ComposeItem.owed, h]
    · have hsum := sum_map_set (f := ComposeItem.owed) (b := jt) hj
      unfold readsOwed at hn ⊢
      omega

/-- With no read owed the turn that clears COPYPENDING comes to COMPOSE in one step (R169). -/
theorem ComposeOwes.clear (h : ComposeOwes s 0 u) (k : Nat) :
    ∃ t, exec .maint { u with turn := .pump .stepwise k } = .next t ∧
      EqUpToTurn (s.composeAll.clearCopy.goto Ph.waitsub) t := by
  obtain ⟨v, todo, rfl, hv, hplanes, htracks, hitems, hn⟩ := h
  obtain rfl : todo = [] := by
    rw [List.eq_nil_iff_forall_not_mem]
    intro it hit
    have hle := List.single_le_sum (l := todo.map ComposeItem.owed) (fun _ _ => Nat.zero_le _) _
      (List.mem_map_of_mem hit)
    have := (hitems it hit).2
    unfold readsOwed at hn
    omega
  have hmatch : DerivedMatch v := fun i hi => htracks.1 i hi nofun
  rw [composeAll_of_derivedMatch hplanes hmatch] at hv
  refine ⟨_, rfl, ?_⟩
  unfold EqUpToTurn
  rw [hv]
  rfl

/-- From `s` a MAINT that serves COPYPENDING step by step has come to `u` with `n` turns left: `n - 1` reads and the
clear. -/
def CopyTurnsLeft (s : State) : Nat → State → Prop
  | 0, u => EqUpToTurn (s.composeAll.clearCopy.goto Ph.waitsub) u
  | n + 1, u => ComposeOwes s n u

/-- The turn in which MAINT reads COPYPENDING = 1 begins a COMPOSE that owes every read (R169). -/
theorem composeOwes_of_start (here : s.pph = .start) (hsf : s.sf = 2) (hs : s.planesOk = true)
    (hreq : s.copyPending = true) (k : Nat) :
    ∃ t, exec .maint { s with turn := .pump .stepwise k } = .next t ∧ ComposeOwes s 720 t := by
  refine ⟨{ s with turn := .pump .stepwise k }.oweCompose composeItems, ?_, ?_⟩
  · simp [exec, execMaint, here, hsf, hreq, turnGrain]
  · refine ⟨_, _, rfl, rfl, hs, tracks_composeItems _, fun it hit => ?_, readsOwed_composeItems⟩
    simp only [composeItems, List.mem_map, List.mem_range] at hit
    obtain ⟨j, hj, rfl⟩ := hit
    exact ⟨hj, by simp [ComposeItem.owed]⟩

/-- Settles O22: the first turn reads the flag, each other one takes one of the 720 reads, the last one clears the
flag. -/
theorem composeInAnyOrderEqualsAtOnce : Obligations.ComposeInAnyOrderEqualsAtOnce := by
  intro s picks here hsf hs hreq hlen
  obtain ⟨k, ks, rfl⟩ := List.exists_cons_of_length_eq_add_one hlen
  obtain ⟨t, hexec, ht⟩ := composeOwes_of_start here hsf hs hreq k
  rw [runTurns_cons hexec]
  refine runTurns_ends (Left := CopyTurnsLeft s) ?_ ks ?_
  · rintro (_ | n) u k h
    · exact ComposeOwes.clear h k
    · exact ComposeOwes.read h k
  · rw [show ks.length = 721 by simpa using hlen]
    exact ht

end Compose
end Sys2Proof.Machine
end

section
/-! FILL and PIXEL: at once (R61, R121, R123), and with their plane accesses in any order (R69). -/

namespace Sys2Proof.Machine

section Paint
variable {s t u f : State} {i : Instr} {todo : List PlaneAct} {a : PlaneAct} {j k n : Nat}

/-! ### PIXEL at once -/

theorem execPixel_atOnce {x y : BitVec 12} {sh : BitVec 2} (h : AtIssue s) (hs : s.planesOk = true)
    (hon : onScreen x.toInt y.toInt = true) :
    exec (.pixel x y sh) s = .next ((s.plotPixel x.toInt.toNat y.toInt.toNat sh).respond .done) := by
  obtain ⟨here, hg⟩ := h
  simp [exec, execPixel, here, hg, hs, coordinate, hon]

theorem onScreen_iff (x y : Int) : onScreen x y = true ↔ 0 ≤ x ∧ x < 72 ∧ 0 ≤ y ∧ y < 40 := by
  simp [onScreen, and_assoc]

/-- Settles O12: the byte written and its mask are those of the pixel, and a write leaves every other byte. -/
theorem pixelUpdatesOneByteOfEachPlane : Obligations.PixelUpdatesOneByteOfEachPlane := by
  intro s x y sh h hs hx hx' hy hy'
  have hon := (onScreen_iff x.toInt y.toInt).2 ⟨hx, hx', hy, hy'⟩
  refine ⟨_, execPixel_atOnce h hs hon, ?_, ⟨rfl, rfl, rfl⟩, ?_⟩
  · rintro idx mask rfl rfl
    obtain ⟨ha, hb, _⟩ := (State.planesOk_iff s).1 hs
    refine ⟨Memory.read_write_same ha (pixelIndex_lt hon) _, Memory.read_write_same hb (pixelIndex_lt hon) _, ?_⟩
    exact fun l hl => ⟨Memory.read_write_other _ _ (Ne.symm hl), Memory.read_write_other _ _ (Ne.symm hl)⟩
  · simp [SameDerived, SameCells, SameRegisters, SameStamps, SamePlace, SameBus, SameAround]

/-- The mask of a pixel has the one bit of the pixel (R61). -/
theorem getLsbD_pixelMask (y : Nat) {c : Nat} (hc : c < 8) : (pixelMask y).getLsbD c = decide (c = pixelBit y) := by
  simp only [pixelMask, BitVec.getLsbD_shiftLeft, BitVec.getLsbD_one, hc, decide_true, Bool.true_and]
  rw [Bool.eq_iff_iff]
  simp
  omega

/-- Putting a pixel's bit into its byte sets it and leaves the others (R61, R123). -/
theorem getLsbD_putMask (old : Byte) (y : Nat) (on : Bool) {c : Nat} (hc : c < 8) :
    (putMask old (pixelMask y) on).getLsbD c = if c = pixelBit y then on else old.getLsbD c := by
  cases on
  · simp only [putMask, Bool.false_eq_true, if_false, BitVec.getLsbD_and, BitVec.getLsbD_not,
      getLsbD_pixelMask y hc, hc]
    split <;> simp_all
  · simp only [putMask, if_true, BitVec.getLsbD_or, getLsbD_pixelMask y hc]
    split <;> simp_all

/-- On the screen two pixels with the same byte and bit are the same (R61). -/
theorem pixel_eq_of_index_bit {x y x' y' : Nat} (hx : x < 72) (hx' : x' < 72)
    (hindex : pixelIndex x y = pixelIndex x' y') (hbit : pixelBit y = pixelBit y') : x = x' ∧ y = y' := by
  simp only [pixelIndex, pixelBit, pageRows, width] at hindex hbit
  omega

theorem pixelBit_lt (y : Nat) : pixelBit y < 8 := Nat.mod_lt _ (by decide)

/-- The plane of `m` with the pixel (x, y) put to `on` (R123). -/
def Memory.plot (m : Memory) (x y : Nat) (on : Bool) : Memory :=
  m.write (pixelIndex x y) (putMask (m.byteAt (pixelIndex x y)) (pixelMask y) on)

theorem plotPixel_la_eq_plot (x y : Nat) (sh : BitVec 2) : (s.plotPixel x y sh).la = s.la.plot x y (shadeA sh) := rfl
theorem plotPixel_lb_eq_plot (x y : Nat) (sh : BitVec 2) : (s.plotPixel x y sh).lb = s.lb.plot x y (shadeB sh) := rfl

theorem Memory.pixel_plot_same {m : Memory} {x y : Nat} {on : Bool} (hm : m.wf = true)
    (hxy : pixelIndex x y < planeBytes) : (m.plot x y on).pixel x y = on := by
  simp [Memory.pixel, Memory.plot, Memory.byteAt_write_same hm hxy, getLsbD_putMask _ _ _ (pixelBit_lt y)]

/-- Another pixel is in another byte, or in another bit of the same byte. -/
theorem Memory.pixel_plot_other {m : Memory} {x y x' y' : Nat} {on : Bool} (hm : m.wf = true)
    (hxy : pixelIndex x y < planeBytes) (hx : x < 72) (hx' : x' < 72) (hne : ¬ (x' = x ∧ y' = y)) :
    (m.plot x y on).pixel x' y' = m.pixel x' y' := by
  unfold Memory.pixel Memory.plot
  by_cases hindex : pixelIndex x' y' = pixelIndex x y
  · have hbit : pixelBit y' ≠ pixelBit y := fun hbit => hne (pixel_eq_of_index_bit hx' hx hindex hbit)
    rw [hindex, Memory.byteAt_write_same hm hxy, getLsbD_putMask _ _ _ (pixelBit_lt y'), if_neg hbit]
  · rw [Memory.byteAt_write_other _ _ (Ne.symm hindex)]

/-- A shade is made of its two bits (R93). -/
theorem shadeOf_shade (sh : BitVec 2) : shadeOf (shadeA sh) (shadeB sh) = sh := by
  revert sh
  decide

/-- Settles O14: in each plane the pixel takes its bit of the shade, and the other pixels keep theirs. -/
theorem pixelSetsExactlyItsShade : Obligations.PixelSetsExactlyItsShade := by
  intro s x y sh h hs hx hx' hy hy'
  have hon := (onScreen_iff x.toInt y.toInt).2 ⟨hx, hx', hy, hy'⟩
  obtain ⟨ha, hb, _⟩ := (State.planesOk_iff s).1 hs
  have hxy := pixelIndex_lt hon
  refine ⟨_, execPixel_atOnce h hs hon, ?_, fun x' y' hx'' _ hne => ?_⟩
  · simp only [State.shade, respond_la, respond_lb, plotPixel_la_eq_plot, plotPixel_lb_eq_plot]
    rw [Memory.pixel_plot_same ha hxy, Memory.pixel_plot_same hb hxy, shadeOf_shade]
  · simp only [State.shade, respond_la, respond_lb, plotPixel_la_eq_plot, plotPixel_lb_eq_plot]
    rw [Memory.pixel_plot_other ha hxy (by omega) hx'' hne, Memory.pixel_plot_other hb hxy (by omega) hx'' hne]

/-! ### Plane accesses in any order -/

/-- The plane an access goes to. -/
def PlaneAct.plane : PlaneAct → LogicalPlane
  | .put p _ _ => p
  | .change p _ _ _ => p

/-- The byte an access goes to: its plane and its index. -/
def PlaneAct.target (a : PlaneAct) : LogicalPlane × Nat := (a.plane, a.index)

/-- The value an access leaves in its byte, done with the planes as they are in `s`. -/
def PlaneAct.value (s : State) : PlaneAct → Byte
  | .put _ _ v => v
  | .change p i mask on => putMask ((s.logical p).byteAt i) mask on

/-- The turns an access takes: a write, or a read and a write (R69). -/
def PlaneAct.owed : PlaneAct → Nat
  | .put _ _ _ => 1
  | .change _ _ _ _ => 2

/-- The turns a FILL or PIXEL in flight still owes. -/
def accessesOwed (todo : List PlaneAct) : Nat := (todo.map PlaneAct.owed).sum

/-- With the accesses `todo` owed, each to a byte of its own, the logical planes come to those of `f`: the bytes no
access goes to are there already, and each access leaves the byte of `f`. -/
structure PaintTracks (f s : State) (todo : List PlaneAct) : Prop where
  kept : ∀ p i, i < planeBytes → (∀ a ∈ todo, a.target ≠ (p, i)) → (s.logical p).byteAt i = (f.logical p).byteAt i
  values : ∀ a ∈ todo, a.value s = (f.logical a.plane).byteAt a.index
  distinct : (todo.map PlaneAct.target).Nodup

theorem byteAt_putLogical_same {p : LogicalPlane} {v : Byte} (hs : s.planesOk = true) (hj : j < planeBytes) :
    ((s.putLogical p j v).logical p).byteAt j = v := by
  obtain ⟨ha, hb, _⟩ := (State.planesOk_iff s).1 hs
  cases p <;> simp [State.logical, Memory.byteAt_write_same, ha, hb, hj]

theorem byteAt_putLogical_other {p q : LogicalPlane} {v : Byte} (h : (p, j) ≠ (q, k)) :
    ((s.putLogical p j v).logical q).byteAt k = (s.logical q).byteAt k := by
  cases p <;> cases q <;> simp_all [State.logical, Memory.byteAt_write_other]

/-- A write to another byte does not change what an access leaves. -/
theorem value_putLogical {p : LogicalPlane} {v : Byte} (h : a.target ≠ (p, j)) :
    a.value (s.putLogical p j v) = a.value s := by
  cases a with
  | put => rfl
  | change q l mask on =>
    have hother : (p, j) ≠ (q, l) := Ne.symm h
    simp only [PlaneAct.value, byteAt_putLogical_other hother]

theorem PaintTracks.congr (h : PaintTracks f s todo) (hl : SameLogical s t) : PaintTracks f t todo := by
  have hlogical (p : LogicalPlane) : t.logical p = s.logical p := by cases p <;> simp [State.logical, hl.1, hl.2]
  refine ⟨fun p i hi hout => ?_, fun a ha => ?_, h.distinct⟩
  · rw [hlogical]
    exact h.kept p i hi hout
  · rw [← h.values a ha]
    cases a <;> simp [PlaneAct.value, hlogical]

/-- An access that writes leaves the list with its byte there. -/
theorem PaintTracks.put {p : LogicalPlane} {v : Byte} (h : PaintTracks f s todo) (hs : s.planesOk = true)
    (hk : todo[k]? = some (.put p j v)) (hj : j < planeBytes) :
    PaintTracks f (s.putLogical p j v) (todo.eraseIdx k) := by
  obtain ⟨hlt, hget⟩ := List.getElem?_eq_some_iff.1 hk
  have others : ∀ a ∈ todo.eraseIdx k, a.target ≠ (p, j) := by
    intro a ha htarget
    obtain ⟨l, hl, hlk, rfl⟩ := List.mem_eraseIdx_iff_getElem.1 ha
    have hsame : (todo.map PlaneAct.target)[l]'(by simpa) = (todo.map PlaneAct.target)[k]'(by simpa) := by
      rw [List.getElem_map, List.getElem_map, hget, htarget]
      rfl
    exact hlk (h.distinct.getElem_inj_iff.1 hsame)
  refine ⟨fun q l hl hout => ?_, fun a ha => ?_, ?_⟩
  · by_cases htarget : (p, j) = (q, l)
    · cases htarget
      rw [byteAt_putLogical_same hs hj]
      exact h.values _ (List.mem_of_getElem? hk)
    · rw [byteAt_putLogical_other htarget]
      refine h.kept q l hl fun a ha => ?_
      obtain ⟨m, hm, rfl⟩ := List.mem_iff_getElem.1 ha
      by_cases hmk : m = k
      · subst hmk
        rwa [hget]
      · exact hout _ (List.mem_eraseIdx_iff_getElem.2 ⟨m, hm, hmk, rfl⟩)
  · rw [value_putLogical (others a ha)]
    exact h.values a (List.mem_of_mem_eraseIdx ha)
  · rw [← List.eraseIdx_map]
    exact h.distinct.eraseIdx k

/-- An access that reads becomes the write of the value it found. -/
theorem PaintTracks.read {p : LogicalPlane} {mask : Byte} {on : Bool} (h : PaintTracks f s todo)
    (hk : todo[k]? = some (.change p j mask on)) :
    PaintTracks f s (todo.set k (.put p j (putMask ((s.logical p).byteAt j) mask on))) := by
  obtain ⟨hlt, hget⟩ := List.getElem?_eq_some_iff.1 hk
  have htargets : (todo.set k (.put p j (putMask ((s.logical p).byteAt j) mask on))).map PlaneAct.target =
      todo.map PlaneAct.target := by
    rw [List.map_set, show PlaneAct.target (.put p j _) = (todo.map PlaneAct.target)[k]'(by simpa using hlt) by
      rw [List.getElem_map, hget]; rfl, List.set_getElem_self]
  refine ⟨fun q l hl hout => h.kept q l hl fun a ha htarget => ?_, fun a ha => ?_, htargets ▸ h.distinct⟩
  · have hmem : (q, l) ∈ todo.map PlaneAct.target := htarget ▸ List.mem_map_of_mem ha
    rw [← htargets, List.mem_map] at hmem
    obtain ⟨b, hb, hbt⟩ := hmem
    exact hout b hb hbt
  · rcases List.mem_or_eq_of_mem_set ha with ha | rfl
    · exact h.values a ha
    · exact (h.values _ (List.mem_of_getElem? hk) :)

/-- A turn of a FILL or PIXEL in flight is of one of the accesses it owes (R69). -/
theorem writeStep_accesses (hne : todo ≠ []) (hs : s.planesOk = true) :
    ∃ k,
      (∃ p j v, todo[k]? = some (.put p j v) ∧
        s.writeStep todo = .next ((s.putLogical p j v).oweWrites (todo.eraseIdx k))) ∨
      (∃ p j mask on, todo[k]? = some (.change p j mask on) ∧
        s.writeStep todo = .next (s.oweWrites (todo.set k (.put p j (putMask ((s.logical p).byteAt j) mask on))))) := by
  have hk := List.getElem?_eq_getElem (Nat.mod_lt (turnPick s.turn) (List.length_pos_iff.2 hne))
  refine ⟨turnPick s.turn % todo.length, ?_⟩
  cases ha : todo[turnPick s.turn % todo.length]'(Nat.mod_lt _ (List.length_pos_iff.2 hne)) with
  | put p j v =>
    rw [ha] at hk
    exact .inl ⟨p, j, v, hk, by simp [State.writeStep, hk]⟩
  | change p j mask on =>
    rw [ha] at hk
    exact .inr ⟨p, j, mask, on, hk, by simp [State.writeStep, hk, hs]⟩

theorem exec_paints (hi : Paints i) (here : s.hph = .writes todo) : exec i s = s.writeStep todo := by
  cases i with
  | fill => simp [exec, execFill, here]
  | pixel => simp [exec, execPixel, here]
  | _ => exact hi.elim

/-- A FILL or PIXEL that comes to the planes of `f` stands at `u` with `n` turns owed, and differs from `f` in nothing
but the logical planes, its place and the turn. -/
def PaintOwes (f : State) (n : Nat) (u : State) : Prop :=
  ∃ v todo, u = v.oweWrites todo ∧ { v with la := f.la, lb := f.lb } = { f with hph := v.hph, turn := v.turn } ∧
    v.planesOk = true ∧ PaintTracks f v todo ∧ (∀ a ∈ todo, a.index < planeBytes) ∧ accessesOwed todo = n

/-- A turn of a FILL or PIXEL in flight is one of those it owes. -/
theorem PaintOwes.turn (hi : Paints i) (h : PaintOwes f (n + 1) u) (k : Nat) :
    ∃ t, exec i { u with turn := .host .stepwise k } = .next t ∧ PaintOwes f n t := by
  obtain ⟨v, todo, rfl, hv, hplanes, htracks, hitems, hn⟩ := h
  have hne : todo ≠ [] := by
    rintro rfl
    simp [accessesOwed] at hn
  rw [oweWrites_of_ne hne]
  set w : State := { v.hostAt (.writes todo) with turn := .host .stepwise k }
  have hwtracks : PaintTracks f w todo := htracks.congr ⟨rfl, rfl⟩
  have hwframe : { w with la := f.la, lb := f.lb } = { f with hph := w.hph, turn := w.turn } := by
    change { ({ v with la := f.la, lb := f.lb } : State) with hph := w.hph, turn := w.turn } = _
    rw [hv]
  rw [exec_paints (s := w) hi rfl]
  obtain ⟨j, ⟨p, l, b, hj, e⟩ | ⟨p, l, mask, on, hj, e⟩⟩ := writeStep_accesses (s := w) hne hplanes
  · have hl : l < planeBytes := hitems _ (List.mem_of_getElem? hj)
    refine ⟨_, e, w.putLogical p l b, todo.eraseIdx j, rfl, ?_, planesOk_putLogical _ _ _ hplanes,
      hwtracks.put hplanes hj hl, fun a ha => hitems a (List.mem_of_mem_eraseIdx ha), ?_⟩
    · cases p <;> exact hwframe
    · have hsum := sum_map_eraseIdx (f := PlaneAct.owed) hj
      simp only [PlaneAct.owed, accessesOwed] at hsum hn ⊢
      omega
  · refine ⟨_, e, w, _, rfl, hwframe, hplanes, hwtracks.read hj, fun a ha => ?_, ?_⟩
    · rcases List.mem_or_eq_of_mem_set ha with ha | rfl
      · exact hitems a ha
      · exact (hitems _ (List.mem_of_getElem? hj) :)
    · have hsum := sum_map_set (f := PlaneAct.owed) (b := .put p l (putMask ((w.logical p).byteAt l) mask on)) hj
      simp only [PlaneAct.owed, accessesOwed] at hsum hn ⊢
      omega

/-- With no turn owed the operation has responded, and the planes are those of `f`. -/
theorem PaintOwes.done (h : PaintOwes f 0 u) (hf : f.planesOk = true) : EqUpToTurn (f.respond .done) u := by
  obtain ⟨v, todo, rfl, hv, hplanes, htracks, hitems, hn⟩ := h
  obtain rfl : todo = [] := by
    cases todo with
    | nil => rfl
    | cons a todo => cases a <;> simp [accessesOwed, PlaneAct.owed] at hn
  obtain ⟨hva, hvb, _⟩ := (State.planesOk_iff v).1 hplanes
  obtain ⟨hfa, hfb, _⟩ := (State.planesOk_iff f).1 hf
  have hla : v.la = f.la := Memory.ext_byteAt hva hfa fun i hi => htracks.kept .a i hi nofun
  have hlb : v.lb = f.lb := Memory.ext_byteAt hvb hfb fun i hi => htracks.kept .b i hi nofun
  have hvf : v = { f with hph := v.hph, turn := v.turn } := by rw [← hv, ← hla, ← hlb]
  rw [oweWrites_nil, EqUpToTurn, hvf]
  rfl

/-- A FILL or PIXEL that owes the accesses `acts` after its first turn comes, in any order of them, to the planes of
`f`. -/
theorem runTurns_paints {acts : List PlaneAct} {picks : List Nat} (hi : Paints i)
    (hissue : ∀ k, exec i { s with turn := .host .stepwise k } =
      .next ({ s with turn := .host .stepwise k }.oweWrites acts))
    (hs : s.planesOk = true) (hacts : owedOk acts = true) (htracks : PaintTracks f s acts)
    (hframe : { s with la := f.la, lb := f.lb } = f) (hf : f.planesOk = true)
    (hlen : picks.length = accessesOwed acts + 1) :
    ∃ t, runTurns i (Turn.host .stepwise) picks s = .next t ∧ EqUpToTurn (f.respond .done) t := by
  obtain ⟨k, ks, rfl⟩ := List.exists_cons_of_length_eq_add_one hlen
  rw [runTurns_cons (hissue k)]
  have hstart : PaintOwes f ks.length ({ s with turn := .host .stepwise k }.oweWrites acts) := by
    refine ⟨_, _, rfl, ?_, hs, htracks.congr ⟨rfl, rfl⟩, ((owedOk_iff acts).1 hacts).2, ?_⟩
    · rw [← hframe]
    · simpa using hlen.symm
  obtain ⟨t, hrun, ht⟩ := runTurns_ends (fun _ _ k h => h.turn hi k) ks hstart
  exact ⟨t, hrun, ht.done hf⟩

/-- FILL's writes, each of one byte, come to FILL's planes (R121). -/
theorem paintTracks_fillActs (s : State) (sh : BitVec 2) : PaintTracks (s.fillPlanes sh) s (fillActs sh) where
  kept p i hi hout := by
    cases p
    · exact absurd rfl (hout (.put .a i (solidByte (shadeA sh))) (by simp [fillActs, hi]))
    · exact absurd rfl (hout (.put .b i (solidByte (shadeB sh))) (by simp [fillActs, hi]))
  values a ha := by
    simp only [fillActs, List.mem_append, List.mem_map, List.mem_range] at ha
    rcases ha with ⟨j, hj, rfl⟩ | ⟨j, hj, rfl⟩
    · exact (Memory.byteAt_ofFn (fun _ => solidByte (shadeA sh)) hj).symm
    · exact (Memory.byteAt_ofFn (fun _ => solidByte (shadeB sh)) hj).symm
  distinct := by
    have inj (p : LogicalPlane) : Function.Injective (Prod.mk (β := Nat) p) := Prod.mk_right_injective p
    rw [fillActs, List.map_append, List.map_map, List.map_map]
    refine List.Nodup.append (List.nodup_range.map (inj .a)) (List.nodup_range.map (inj .b)) fun x ha hb => ?_
    obtain ⟨_, _, rfl⟩ := List.mem_map.1 ha
    obtain ⟨_, _, hx⟩ := List.mem_map.1 hb
    cases hx

theorem accessesOwed_append (l m : List PlaneAct) : accessesOwed (l ++ m) = accessesOwed l + accessesOwed m := by
  simp [accessesOwed]

/-- A write takes one turn (R69). -/
theorem accessesOwed_map_put (p : LogicalPlane) (v : Byte) (l : List Nat) :
    accessesOwed (l.map (.put p · v)) = l.length := by
  simp [accessesOwed, Function.comp_def, PlaneAct.owed]

theorem accessesOwed_fillActs (sh : BitVec 2) : accessesOwed (fillActs sh) = 720 := by
  rw [fillActs, accessesOwed_append, accessesOwed_map_put, accessesOwed_map_put, List.length_range]
  rfl

/-- Settles O11: the first turn owes the 720 writes, each other one takes one of them. -/
theorem fillInAnyOrderEqualsAtOnce : Obligations.FillInAnyOrderEqualsAtOnce := by
  intro s sh picks here hs hlen
  refine runTurns_paints (i := .fill sh) trivial (fun k => ?_) hs (owedOk_fillActs sh) (paintTracks_fillActs s sh) rfl
    (planesOk_fillPlanes sh hs) (by rw [accessesOwed_fillActs, hlen])
  simp [exec, execFill, here, turnGrain]

/-- PIXEL's two updates, of one byte of each plane, come to PIXEL's planes (R123). -/
theorem paintTracks_pixelActs {x y : Nat} (hs : s.planesOk = true) (hxy : pixelIndex x y < planeBytes) (sh : BitVec 2) :
    PaintTracks (s.plotPixel x y sh) s (pixelActs x y sh) := by
  obtain ⟨ha, hb, _⟩ := (State.planesOk_iff s).1 hs
  refine ⟨fun p i hi hout => ?_, fun a hmem => ?_, by simp [pixelActs, PlaneAct.target, PlaneAct.plane]⟩
  · simp only [pixelActs, List.mem_cons, List.not_mem_nil, or_false, forall_eq_or_imp, forall_eq] at hout
    cases p
    · exact (Memory.byteAt_write_other _ _ fun h => hout.1 (by rw [← h]; rfl)).symm
    · exact (Memory.byteAt_write_other _ _ fun h => hout.2 (by rw [← h]; rfl)).symm
  · simp only [pixelActs, List.mem_cons, List.not_mem_nil, or_false] at hmem
    rcases hmem with rfl | rfl
    · exact (Memory.byteAt_write_same ha hxy _).symm
    · exact (Memory.byteAt_write_same hb hxy _).symm

/-- Settles O15: the first turn owes the two updates, each other one takes one of their reads and writes. -/
theorem pixelInAnyOrderEqualsAtOnce : Obligations.PixelInAnyOrderEqualsAtOnce := by
  intro s x y sh picks here hs hon hlen
  have hxy := pixelIndex_lt hon
  refine runTurns_paints (i := .pixel x y sh) trivial (fun k => ?_) hs (owedOk_pixelActs sh hon)
    (paintTracks_pixelActs hs hxy sh) rfl (planesOk_plotPixel _ _ sh hs) hlen
  simp [exec, execPixel, here, turnGrain, coordinate, hon]

end Paint
end Sys2Proof.Machine
end

section
/-! A subframe in at-once turns with no deadline missed: what each turn sends and where it leads, the turns up to
MAINT and behind it (R177, R271), and an outer cycle that serves a copy request (R77, R152). -/

namespace Sys2Proof.Machine

/-! ### Runs -/

section Run
variable {M : Host.Core} {s t u : M.State} {m n : Nat}

theorem run_succ (h : M.step s = .next t) : M.run (n + 1) s = M.run n t := by
  rw [Host.Core.run, h]

theorem run_trans (h : M.run m s = .next t) (h' : M.run n t = .next u) : M.run (m + n) s = .next u := by
  induction m generalizing s with
  | zero =>
    cases h
    rwa [Nat.zero_add]
  | succ m ih =>
    rw [Host.Core.run] at h
    split at h
    next v hstep =>
      rw [Nat.succ_add, run_succ hstep]
      exact ih h
    · cases h
    · cases h

end Run

section Cycle
variable {s t u : State} {i : Instr} {p q : BitVec 4} {ts : List Turn} {m n a b : Nat} {sent sent' : List BusEvent}

/-! ### Runs of the pump's loop -/

/-- In `n` steps the pump goes on in its loop from `s` to `t`, `sent` goes to the bus and `us` microseconds pass; but
for its place, its stamps, the lines, the turns and the time left of a `wait`, nothing else changes. -/
structure Goes (n : Nat) (s : State) (sent : List BusEvent) (us : Nat) (t : State) : Prop where
  run : Host.Core.run core n s = .next t
  frame : t = { s with
    ts1 := t.ts1, ts3 := t.ts3, ph := t.ph, sf := t.sf, pph := t.pph, sdo := t.sdo, sck := t.sck, dc := t.dc, cs := t.cs
    busLog := s.busLog ++ sent, now := s.now + us, waitLeft := t.waitLeft, turn := t.turn, sched := t.sched
    draws := t.draws }

theorem Goes.trans (h : Goes m s sent a t) (h' : Goes n t sent' b u) : Goes (m + n) s (sent ++ sent') (a + b) u := by
  refine ⟨run_trans h.run h'.run, ?_⟩
  have hframe := h'.frame
  rw [h.frame] at hframe
  simpa only [List.append_assoc, Nat.add_assoc] using hframe

theorem Goes.busLog (h : Goes n s sent a t) : t.busLog = s.busLog ++ sent := (congrArg State.busLog h.frame :)
theorem Goes.now (h : Goes n s sent a t) : t.now = s.now + a := (congrArg State.now h.frame :)
theorem Goes.cfg (h : Goes n s sent a t) : t.cfg = s.cfg := (congrArg State.cfg h.frame :)
theorem Goes.cadj (h : Goes n s sent a t) : t.cadj = s.cadj := (congrArg State.cadj h.frame :)
theorem Goes.cells (h : Goes n s sent a t) : SameCells s t :=
  ⟨(congrArg State.runState h.frame :), (congrArg State.copyPending h.frame :), (congrArg State.pendingCmd h.frame :),
    (congrArg State.creq h.frame :)⟩
theorem Goes.logical (h : Goes n s sent a t) : SameLogical s t :=
  ⟨(congrArg State.la h.frame :), (congrArg State.lb h.frame :)⟩
theorem Goes.derived (h : Goes n s sent a t) : SameDerived s t :=
  ⟨(congrArg State.dp0 h.frame :), (congrArg State.dp1 h.frame :), (congrArg State.dp2 h.frame :)⟩
theorem Goes.planesOk (h : Goes n s sent a t) : t.planesOk = s.planesOk := planesOk_congr h.logical h.derived
theorem Goes.derivedPlane (h : Goes n s sent a t) (k : Fin 3) : t.derived k = s.derived k := by
  obtain ⟨h0, h1, h2⟩ := h.derived
  unfold State.derived
  split <;> assumption

/-- The bytes of a subframe are those of the planes, pairs and sequences, which the loop leaves as they are. -/
theorem Goes.subframeEvents_eq (h : Goes n s sent a t) (k : Fin 3) : subframeEvents t k = subframeEvents s k := by
  simp [subframeEvents, h.cfg, h.cadj, h.derivedPlane]

/-! ### Taking a turn -/

/-- The pump is at the beginning of the micro-operation of code `p`, with no frame pending, and these turns are next. -/
structure Ready (s : State) (p : BitVec 4) (ts : List Turn) : Prop where
  place : PumpAt s p
  frames : s.pumpTx = []
  sched : s.sched = ts

/-- `s` with an at-once turn of the pump taken, and these turns next. -/
@[simps] def State.pumpTurn (s : State) (ts : List Turn) : State := { s with turn := .pump .atOnce 0, sched := ts }

theorem Ready.step_eq (h : Ready s p (.pump .atOnce 0 :: ts)) (hp : encode i = .phase p) :
    step s = exec i (s.pumpTurn ts) := by
  obtain ⟨_, _, _, hpump, _⟩ := turnRunsItsOperation
  exact hpump s .atOnce 0 ts i (by rw [hp, h.place.1]) h.sched h.frames

theorem Ready.atStart (h : Ready s p (.pump .atOnce 0 :: ts)) : AtStart (s.pumpTurn ts) := ⟨h.place.2, rfl⟩

theorem goes_of_step (hstep : step s = .next t)
    (hframe : t = { s with
      ts1 := t.ts1, ts3 := t.ts3, ph := t.ph, sf := t.sf, pph := t.pph, sdo := t.sdo, sck := t.sck, dc := t.dc
      cs := t.cs, busLog := s.busLog ++ sent, now := s.now + a, waitLeft := t.waitLeft, turn := t.turn
      sched := t.sched, draws := t.draws }) : Goes 1 s sent a t :=
  ⟨run_succ (M := core) hstep, hframe⟩

/-- A step that sends nothing and lets no time pass. -/
theorem goes_of_silent_step (hstep : step s = .next t)
    (hframe : t = { s with
      ts1 := t.ts1, ts3 := t.ts3, ph := t.ph, sf := t.sf, pph := t.pph, sdo := t.sdo, sck := t.sck, dc := t.dc
      cs := t.cs, waitLeft := t.waitLeft, turn := t.turn, sched := t.sched, draws := t.draws }) : Goes 1 s [] 0 t :=
  goes_of_step hstep (by rw [List.append_nil]; exact hframe)

/-- A burst changes the lines and the log (R191, R192). -/
theorem sendBurst_frame (s : State) (dc : Bool) (bytes : List Byte) (who : Agent) :
    ∃ sdo sck dc' cs, s.sendBurst dc bytes who = { s with
      sdo := sdo, sck := sck, dc := dc', cs := cs, busLog := s.busLog ++ burstEvents dc bytes who } := by
  unfold State.sendBurst
  split
  next hlast =>
    rw [List.getLast?_eq_none_iff] at hlast
    exact ⟨s.sdo, s.sck, s.dc, s.cs, by simp [hlast, burstEvents]⟩
  next => exact ⟨_, _, _, _, rfl⟩

/-- Command bytes and display-memory bytes behind them change the lines and the log (R191, R192). -/
theorem bursts_frame (s : State) (cmds datas : List Byte) (who : Agent) :
    ∃ sdo sck dc cs, (s.txc cmds who).txd datas who = { s with
      sdo := sdo, sck := sck, dc := dc, cs := cs
      busLog := s.busLog ++ (burstEvents false cmds who ++ burstEvents true datas who) } := by
  obtain ⟨_, _, _, _, e⟩ := sendBurst_frame s false cmds who
  obtain ⟨sdo, sck, dc, cs, e'⟩ := sendBurst_frame (s.txc cmds who) true datas who
  refine ⟨sdo, sck, dc, cs, e'.trans ?_⟩
  rw [State.txc, e, ← List.append_assoc]

/-- A turn of TIMEBASE lets time pass (R46). -/
theorem Ready.timebase {us : Nat} (h : Ready s p (.timebase us :: ts)) :
    ∃ t, Goes 1 s [] us t ∧ Ready t p ts ∧ t.sf = s.sf ∧ SameStamps s t := by
  obtain ⟨_, _, _, _, _, _, htime⟩ := turnRunsItsOperation
  exact ⟨_, goes_of_step (htime s us ts h.sched) (by simp), ⟨h.place, h.frames, rfl⟩, rfl, rfl, rfl⟩

/-! ### The micro-operations at once -/

theorem sendThenGoto_atOnce (h : AtStart s) (bytes : List Byte) :
    s.sendThenGoto bytes q = .next ((s.txc bytes .pump).goto q) := by
  simp [State.sendThenGoto, h.1, h.2]

theorem execPark_atOnce (h : AtStart s) :
    exec .park s = .next (({ s with ts1 := s.now }.txc s.cfg.parkSeq .pump).goto Ph.waitpre) := by
  have hpark : execPark s = { s with ts1 := s.now }.sendThenGoto s.cfg.parkSeq Ph.waitpre := by
    simp only [execPark, h.1]
  rw [exec, hpark]
  exact sendThenGoto_atOnce (s := { s with ts1 := s.now }) h _

theorem execWaitpre_due (hdue : s.ts1 + s.cfg.tPreUs ≤ s.now) : exec .waitpre s = .next (s.goto Ph.txplane) := by
  simp [exec, execWaitpre, hdue]

theorem execTxplane_atOnce (h : AtStart s) (hs : s.planesOk = true) :
    exec .txplane s = .next ((({ s with ts3 := s.now }.txc s.cfg.txplanePrefix .pump).txd
      (s.derived s.sf).bytes .pump).goto Ph.cadj1) := by
  obtain ⟨here, hg⟩ := h
  have hsend : execTxplane s = { s with ts3 := s.now }.sendPlane (s.derived s.sf) Ph.cadj1 := by
    simp only [execTxplane, here]
  have hgrain : turnGrain ({ s with ts3 := s.now } : State).turn = .atOnce := hg
  rw [exec, hsend, State.sendPlane, hgrain]
  exact if_pos hs

theorem execMaint_passes (here : s.pph = .start) (hsf : s.sf ≠ 2) : exec .maint s = .next (s.goto Ph.waitsub) := by
  simp [exec, execMaint, here, hsf]

theorem execMaint_composes (h : AtStart s) (hsf : s.sf = 2) (hs : s.planesOk = true) (hreq : s.copyPending = true) :
    exec .maint s = .next (s.composeAll.clearCopy.goto Ph.waitsub) := by
  simp [exec, execMaint, h.1, h.2, hsf, State.serveOne, hreq, hs]

theorem execWaitsub_due (hdue : s.ts3 + s.cfg.tSubUs ≤ s.now) : exec .waitsub s = .next (s.goto Ph.next) := by
  simp [exec, execWaitsub, hdue]

theorem execNext_eq (s : State) :
    exec .next s = .next ({ s with sf := s.sf + 1 }.goto
      (if s.sf = 2 ∧ s.runState = RunState.stopping then Ph.blank else Ph.park)) := by
  by_cases hsf : s.sf = 2 <;> simp [exec, execNext, hsf]

/-! ### One turn -/

/-- A turn that takes its stamps, sends its bursts and goes to its successor (R163, R165 to R168). -/
theorem Ready.bursts {v : State} {cmds datas : List Byte} (h : Ready s p (.pump .atOnce 0 :: ts))
    (hv : v = { s.pumpTurn ts with ts1 := v.ts1, ts3 := v.ts3 })
    (hstep : step s = .next (((v.txc cmds .pump).txd datas .pump).goto q)) :
    ∃ t, Goes 1 s (burstEvents false cmds .pump ++ burstEvents true datas .pump) 0 t ∧ Ready t q ts ∧ t.sf = s.sf ∧
      SameStamps v t := by
  obtain ⟨sdo, sck, dc, cs, e⟩ := bursts_frame v cmds datas .pump
  rw [e] at hstep
  refine ⟨_, goes_of_step hstep ?_, ⟨⟨rfl, rfl⟩, ?_, ?_⟩, ?_, rfl, rfl⟩
  · rw [hv]; rfl
  · exact (congrArg State.pumpTx hv).trans h.frames
  · exact (congrArg State.sched hv :)
  · exact (congrArg State.sf hv :)

/-- A micro-operation that sends command bytes takes no stamp but PARK's (R166 to R168). -/
theorem Ready.sends {bytes : List Byte} (h : Ready s p (.pump .atOnce 0 :: ts)) (hp : encode i = .phase p)
    (hexec : exec i (s.pumpTurn ts) = (s.pumpTurn ts).sendThenGoto bytes q) :
    ∃ t, Goes 1 s (burstEvents false bytes .pump) 0 t ∧ Ready t q ts ∧ t.sf = s.sf ∧ SameStamps s t := by
  have hstep := (h.step_eq hp).trans (hexec.trans (sendThenGoto_atOnce h.atStart bytes))
  obtain ⟨t, hg, hrest⟩ := h.bursts (datas := []) rfl hstep
  exact ⟨t, by simpa [burstEvents] using hg, hrest⟩

/-- PARK takes TS1 (R163). -/
theorem Ready.park (h : Ready s 2#4 (.pump .atOnce 0 :: ts)) :
    ∃ t, Goes 1 s (burstEvents false s.cfg.parkSeq .pump) 0 t ∧ Ready t 3#4 ts ∧ t.sf = s.sf ∧ t.ts1 = s.now := by
  have hstep := (h.step_eq (i := .park) rfl).trans (execPark_atOnce h.atStart)
  obtain ⟨t, hg, hr, hsf, hts1, _⟩ := h.bursts (datas := []) rfl hstep
  exact ⟨t, by simpa [burstEvents] using hg, hr, hsf, hts1⟩

/-- WAITPRE past its deadline goes to TXPLANE (R164). -/
theorem Ready.waitpre (h : Ready s 3#4 (.pump .atOnce 0 :: ts)) (hdue : s.ts1 + s.cfg.tPreUs ≤ s.now) :
    ∃ t, Goes 1 s [] 0 t ∧ Ready t 4#4 ts ∧ t.sf = s.sf := by
  have hstep := (h.step_eq (i := .waitpre) rfl).trans (execWaitpre_due hdue)
  exact ⟨_, goes_of_silent_step hstep rfl, ⟨⟨rfl, rfl⟩, h.frames, rfl⟩, rfl⟩

/-- TXPLANE takes TS3 and sends the derived plane of the subframe (R165). -/
theorem Ready.txplane (h : Ready s 4#4 (.pump .atOnce 0 :: ts)) (hs : s.planesOk = true) :
    ∃ t, Goes 1 s (burstEvents false s.cfg.txplanePrefix .pump ++ burstEvents true (s.derived s.sf).bytes .pump) 0 t ∧
      Ready t 5#4 ts ∧ t.sf = s.sf ∧ t.ts3 = s.now := by
  have hstep := (h.step_eq (i := .txplane) rfl).trans (execTxplane_atOnce h.atStart hs)
  obtain ⟨t, hg, hr, hsf, _, hts3⟩ := h.bursts rfl hstep
  exact ⟨t, hg, hr, hsf, hts3⟩

/-- WAITSUB past its deadline goes to NEXT (R170). -/
theorem Ready.waitsub (h : Ready s 9#4 (.pump .atOnce 0 :: ts)) (hdue : s.ts3 + s.cfg.tSubUs ≤ s.now) :
    ∃ t, Goes 1 s [] 0 t ∧ Ready t 10#4 ts ∧ t.sf = s.sf := by
  have hstep := (h.step_eq (i := .waitsub) rfl).trans (execWaitsub_due hdue)
  exact ⟨_, goes_of_silent_step hstep rfl, ⟨⟨rfl, rfl⟩, h.frames, rfl⟩, rfl⟩

/-- NEXT goes to the next subframe (R171). -/
theorem Ready.next (h : Ready s 10#4 (.pump .atOnce 0 :: ts)) :
    ∃ t, Goes 1 s [] 0 t ∧
      Ready t (if s.sf = 2 ∧ s.runState = RunState.stopping then 11#4 else 2#4) ts ∧ t.sf = s.sf + 1 := by
  have hstep := (h.step_eq (i := .next) rfl).trans (execNext_eq _)
  exact ⟨_, goes_of_silent_step hstep rfl, ⟨⟨rfl, rfl⟩, h.frames, rfl⟩, rfl⟩

/-- In subframes 0 and 1 MAINT looks at no request (R169). -/
theorem Ready.maint_passes (h : Ready s 8#4 (.pump .atOnce 0 :: ts)) (hsf : s.sf ≠ 2) :
    ∃ t, Goes 1 s [] 0 t ∧ Ready t 9#4 ts ∧ t.sf = s.sf ∧ SameStamps s t := by
  have hstep := (h.step_eq (i := .maint) rfl).trans (execMaint_passes h.atStart.1 hsf)
  exact ⟨_, goes_of_silent_step hstep rfl, ⟨⟨rfl, rfl⟩, h.frames, rfl⟩, rfl, rfl, rfl⟩

/-! ### A subframe -/

/-- The seven turns from PARK to MAINT send the bytes of the subframe, in the order of R177. -/
theorem Ready.toMaint (hs : s.planesOk = true)
    (h : Ready s 2#4 (.pump .atOnce 0 :: .timebase s.cfg.tPreUs :: .pump .atOnce 0 :: .pump .atOnce 0 ::
      .pump .atOnce 0 :: .pump .atOnce 0 :: .pump .atOnce 0 :: ts)) :
    ∃ t, Goes 7 s (subframeEvents s s.sf) s.cfg.tPreUs t ∧ Ready t 8#4 ts ∧ t.sf = s.sf ∧ t.ts3 = t.now := by
  obtain ⟨t1, g1, r1, f1, hts1⟩ := h.park
  obtain ⟨t2, g2, r2, f2, hstamp, _⟩ := r1.timebase
  have g12 := g1.trans g2
  obtain ⟨t3, g3, r3, f3⟩ := r2.waitpre (by rw [hstamp, hts1, g12.cfg, g12.now]; omega)
  have g13 := g12.trans g3
  obtain ⟨t4, g4, r4, f4, hts3⟩ := r3.txplane (g13.planesOk.trans hs)
  obtain ⟨t5, g5, r5, f5, _, e5⟩ := r4.sends (i := .cadj1) (bytes := pairBytes t4.cadj t4.sf) rfl rfl
  obtain ⟨t6, g6, r6, f6, _, e6⟩ := r5.sends (i := .resume) (bytes := t5.cfg.resumeSeq) rfl rfl
  obtain ⟨t7, g7, r7, f7, _, e7⟩ := r6.sends (i := .cadj2) (bytes := pairBytes t6.cadj t6.sf) rfl rfl
  have g14 := g13.trans g4
  have g15 := g14.trans g5
  have g47 := g4.trans ((g5.trans g6).trans g7)
  have g17 := g13.trans g47
  have hsf3 : t3.sf = s.sf := by rw [f3, f2, f1]
  have hsf4 : t4.sf = s.sf := by rw [f4, hsf3]
  have hsf6 : t6.sf = s.sf := by rw [f6, f5, hsf4]
  refine ⟨t7, ?_, r7, by rw [f7, hsf6], by rw [e7, e6, e5, hts3, g47.now]; rfl⟩
  simpa [subframeEvents, g13.cfg, g13.derivedPlane, g14.cadj, g15.cfg, (g15.trans g6).cadj, hsf3, hsf4, hsf6]
    using g17

/-- The three turns from WAITSUB to the next subframe send nothing (R170, R171). -/
theorem Ready.toNext (h : Ready s 9#4 (.timebase s.cfg.tSubUs :: .pump .atOnce 0 :: .pump .atOnce 0 :: ts))
    (hdue : s.ts3 = s.now) :
    ∃ t, Goes 3 s [] s.cfg.tSubUs t ∧
      Ready t (if s.sf = 2 ∧ s.runState = RunState.stopping then 11#4 else 2#4) ts ∧ t.sf = s.sf + 1 := by
  obtain ⟨t1, g1, r1, f1, _, e1⟩ := h.timebase
  obtain ⟨t2, g2, r2, f2⟩ := r1.waitsub (by rw [e1, hdue, g1.cfg, g1.now])
  have g12 := g1.trans g2
  obtain ⟨t3, g3, r3, f3⟩ := r2.next
  rw [f2, f1, g12.cells.1] at r3
  exact ⟨t3, by simpa using g12.trans g3, r3, by rw [f3, f2, f1]⟩

/-- Subframes 0 and 1 send their bytes, serve no request and go on to the next subframe (R177, R271). -/
theorem Ready.subframe (hs : s.planesOk = true) (hsf : s.sf ≠ 2) (h : Ready s 2#4 (subframeTurns s.cfg ++ ts)) :
    ∃ t, Goes 11 s (subframeEvents s s.sf) (s.cfg.tPreUs + s.cfg.tSubUs) t ∧ Ready t 2#4 ts ∧
      t.sf = s.sf + 1 := by
  obtain ⟨t1, g1, r1, f1, hts3⟩ := Ready.toMaint hs h
  obtain ⟨t2, g2, r2, f2, _, e2⟩ := r1.maint_passes (by rwa [f1])
  have g12 := g1.trans g2
  rw [← g12.cfg] at r2
  obtain ⟨t3, g3, r3, f3⟩ := r2.toNext (by rw [e2, hts3, g2.now]; rfl)
  rw [f2, f1, if_neg fun hstop => hsf hstop.1] at r3
  exact ⟨t3, by simpa [g12.cfg] using g12.trans g3, r3, by rw [f3, f2, f1]⟩

/-! ### The outer cycle -/

/-- MAINT at the checkpoint serves the copy request (R169). -/
theorem Ready.maint_composes (h : Ready s 8#4 (.pump .atOnce 0 :: ts)) (hsf : s.sf = 2) (hs : s.planesOk = true)
    (hreq : s.copyPending = true) :
    ∃ t, step s = .next t ∧ t = (s.pumpTurn ts).composeAll.clearCopy.goto Ph.waitsub ∧ Ready t 9#4 ts :=
  ⟨_, (h.step_eq (i := .maint) rfl).trans (execMaint_composes h.atStart hsf hs hreq), rfl, ⟨rfl, rfl⟩, h.frames, rfl⟩

/-- Subframe 2 with a copy request sends its bytes and leaves derived planes that match (R169, R177). -/
theorem Ready.subframe_copies (hs : s.planesOk = true) (hsf : s.sf = 2) (hreq : s.copyPending = true)
    (h : Ready s 2#4 (subframeTurns s.cfg ++ ts)) :
    ∃ t, Host.Core.run core 11 s = .next t ∧ t.busLog = s.busLog ++ subframeEvents s 2 ∧
      t.now = s.now + (s.cfg.tPreUs + s.cfg.tSubUs) ∧ t.copyPending = false ∧ t.creq = s.creq ∧
      t.pendingCmd = s.pendingCmd ∧ t.cadj = s.cadj ∧ DerivedMatch t ∧ SameLogical s t := by
  obtain ⟨t1, g1, r1, f1, hts3⟩ := Ready.toMaint hs h
  rw [← g1.cfg] at r1
  obtain ⟨_, hmaint, rfl, r2⟩ := r1.maint_composes (f1.trans hsf) (g1.planesOk.trans hs) (g1.cells.2.1.trans hreq)
  obtain ⟨t, g3, _⟩ := r2.toNext hts3
  have hrun := run_trans g1.run ((run_succ (M := core) hmaint).trans g3.run)
  obtain ⟨_, hcopy, hcmd, hcreq⟩ := g3.cells
  obtain ⟨_, _, hcmd1, hcreq1⟩ := g1.cells
  refine ⟨t, hrun, ?_, ?_, hcopy, hcreq.trans hcreq1, hcmd.trans hcmd1, g3.cadj.trans g1.cadj,
    (derivedMatch_composeAll (t1.pumpTurn _)).congr g3.logical g3.derived,
    ⟨g3.logical.1.trans g1.logical.1, g3.logical.2.trans g1.logical.2⟩⟩
  · simpa [g1.busLog, hsf] using g3.busLog
  · simpa [g1.now, g1.cfg, Nat.add_assoc] using g3.now

/-- Settles O48: two subframes that serve nothing, and the third, whose MAINT composes. -/
theorem outerCycleServesACopyRequest : Obligations.OuterCycleServesACopyRequest := by
  intro s ts _ hs hph hpph hsf hfs hreq hsched
  have r0 : Ready s 2#4 (subframeTurns s.cfg ++ (subframeTurns s.cfg ++ (subframeTurns s.cfg ++ ts))) :=
    ⟨⟨hph, hpph⟩, hfs, by rw [hsched, cycleTurns, List.append_assoc, List.append_assoc]⟩
  obtain ⟨t1, g1, r1, f1⟩ := r0.subframe hs (by rw [hsf]; decide)
  rw [hsf] at f1 g1
  rw [← g1.cfg] at r1
  obtain ⟨t2, g2, r2, f2⟩ := r1.subframe (g1.planesOk.trans hs) (by rw [f1]; decide)
  rw [f1] at f2 g2
  have g12 := g1.trans g2
  rw [g1.cfg, ← g12.cfg] at r2
  have hreq2 : t2.copyPending = true := g12.cells.2.1.trans hreq
  obtain ⟨t, hrun, hlog, hnow, hcopy, hcreq, hcmd, hcadj, hmatch, hl⟩ :=
    r2.subframe_copies (g12.planesOk.trans hs) (by rw [f2]; rfl) hreq2
  obtain ⟨_, _, hcmd2, hcreq2⟩ := g12.cells
  refine ⟨t, run_trans g12.run hrun, ?_, hcopy, hcreq.trans hcreq2, hcmd.trans hcmd2, hcadj.trans g12.cadj, hmatch,
    ⟨hl.1.trans g12.logical.1, hl.2.trans g12.logical.2⟩, ?_⟩
  · rw [hlog, g12.busLog, g1.subframeEvents_eq, g12.subframeEvents_eq, ← List.append_assoc]
    rfl
  · rw [hnow, g12.now, g1.cfg, g12.cfg]
    omega

end Cycle
end Sys2Proof.Machine
end

section
/-! The encodings read backwards: what decodes is its operation's code (R91 to R105). -/

namespace Sys2Proof

/-! ### A word from its fields (R91) -/

section Fields
variable {op : BitVec 4} (w : HWord) {w' : HWord}

theorem append_fieldsH0 : w.extractLsb' 28 4 ++ w.extractLsb' 0 28 = w := by grind

theorem append_fieldsHS : w.extractLsb' 28 4 ++ w.extractLsb' 2 26 ++ w.extractLsb' 0 2 = w := by grind

theorem append_fieldsHP : w.extractLsb' 28 4 ++ w.extractLsb' 16 12 ++ w.extractLsb' 4 12 ++ w.extractLsb' 2 2 ++
    w.extractLsb' 0 2 = w := by grind

theorem append_fieldsHL : w.extractLsb' 28 4 ++ w.extractLsb' 8 20 ++ w.extractLsb' 0 8 = w := by grind

theorem append_payloadBytes :
    w.extractLsb' 24 8 ++ w.extractLsb' 16 8 ++ w.extractLsb' 8 8 ++ w.extractLsb' 0 8 = w := by
  grind

variable {w : HWord}

theorem wordH0_of_fields (hop : (w.extractLsb' 28 4).toNat = op.toNat) (hzero : w.extractLsb' 0 28 = 0#28) :
    wordH0 op = w := by
  rw [wordH0, ← BitVec.eq_of_toNat_eq hop, ← hzero, append_fieldsH0]

theorem wordHS_of_fields (hop : (w.extractLsb' 28 4).toNat = op.toNat) (hzero : w.extractLsb' 2 26 = 0#26) :
    wordHS op (w.extractLsb' 0 2) = w := by
  rw [wordHS, ← BitVec.eq_of_toNat_eq hop, ← hzero, append_fieldsHS]

theorem wordHP_of_fields (hop : (w.extractLsb' 28 4).toNat = op.toNat) (hzero : w.extractLsb' 2 2 = 0#2) :
    wordHP op (w.extractLsb' 16 12) (w.extractLsb' 4 12) (w.extractLsb' 0 2) = w := by
  rw [wordHP, ← BitVec.eq_of_toNat_eq hop, ← hzero, append_fieldsHP]

theorem wordHL_of_fields (hop : (w.extractLsb' 28 4).toNat = op.toNat) (hzero : w.extractLsb' 8 20 = 0#20) :
    wordHL op (w.extractLsb' 0 8) = w := by
  rw [wordHL, ← BitVec.eq_of_toNat_eq hop, ← hzero, append_fieldsHL]

end Fields

/-! ### COMMAND's payload read backwards (R98, R99) -/

theorem unpackWords_length (ws : List HWord) : (unpackWords ws).length = 4 * ws.length := by
  induction ws with
  | nil => rfl
  | cons w ws ih =>
    simp only [unpackWords, unpackWord, List.length_append, List.length_cons, List.length_nil, ih]
    omega

/-- A payload whose unused high bytes are 0 is the packing of its first `n` bytes. -/
theorem packWords_take_unpackWords {n : Nat} {ws : List HWord} (hlen : ws.length = payloadWords n)
    (hpad : ∀ b ∈ (unpackWords ws).drop n, b = 0#8) : packWords ((unpackWords ws).take n) = ws := by
  induction ws generalizing n with
  | nil => simp [unpackWords, packWords]
  | cons w ws ih =>
    simp only [payloadWords, List.length_cons] at hlen
    simp only [unpackWords, unpackWord, List.cons_append, List.nil_append] at hpad ⊢
    rcases Nat.lt_or_ge n 4 with hlast | hfull
    · obtain rfl : ws = [] := List.length_eq_zero_iff.1 (by omega)
      conv_rhs => rw [← append_payloadBytes w]
      match n with
      | 1 | 2 | 3 => simp_all [unpackWords, packWords]
    · obtain ⟨m, rfl⟩ := Nat.exists_eq_add_of_le' hfull
      simp only [List.take_succ_cons, List.drop_succ_cons, packWords, append_payloadBytes] at hpad ⊢
      rw [ih (by simp only [payloadWords]; omega) hpad]

/-- The words COMMAND's payload decodes from are the packing of its bytes. -/
theorem decodeCommand_encodes {n : Nat} {i : Instr} {ws rest : List HWord} (h : decodeCommand n ws = .ok i rest) :
    ∃ bytes, i = .command bytes ∧ bytes.length = n ∧ ws = packWords bytes ++ rest := by
  unfold decodeCommand at h
  split at h
  · cases h
  next hlen =>
  dsimp only at h
  split at h
  next hpad =>
    cases h
    have htake : (ws.take (payloadWords n)).length = payloadWords n := List.length_take_of_le (by omega)
    refine ⟨_, rfl, List.length_take_of_le ?_, ?_⟩
    · rw [unpackWords_length, htake, payloadWords]
      omega
    · rw [packWords_take_unpackWords htake (by simpa using hpad), List.take_append_drop]
  · cases h

/-! ### What decodes is its operation's code -/

theorem orReserved_encodes {zero : Bool} {i j : Instr} {w : HWord} {ws rest : List HWord}
    (h : orReserved zero j ws = .ok i rest) (he : zero = true → encode j = .host [w]) :
    ∃ code, encode i = .host code ∧ w :: ws = code ++ rest := by
  unfold orReserved at h
  split at h <;> cases h
  exact ⟨[w], he ‹_›, rfl⟩

/-- The words the host decoder read are the code of the operation it answers (R91, R98, R99). -/
theorem decodeHost_encodes {ws rest : List HWord} {i : Instr} (h : decodeHost ws = .ok i rest) :
    ∃ code, encode i = .host code ∧ ws = code ++ rest := by
  unfold decodeHost at h
  split at h
  · cases h
  next w ws =>
  have single {v : HWord} (e : v = w) : Code.host [v] = .host [w] := e ▸ rfl
  split at h
  case h_1 hop => exact orReserved_encodes h fun hz => single (wordHS_of_fields hop (eq_of_beq hz))
  case h_2 hop => exact orReserved_encodes h fun hz => single (wordHP_of_fields hop (eq_of_beq hz))
  case h_5 hop | h_6 hop => exact orReserved_encodes h fun hz => single (wordHL_of_fields hop (eq_of_beq hz))
  case h_9 hop =>
    split at h
    next hz =>
      obtain ⟨bytes, rfl, hlen, rfl⟩ := decodeCommand_encodes h
      refine ⟨_, rfl, ?_⟩
      rw [hlen, BitVec.ofNat_toNat, BitVec.setWidth_eq, wordHL_of_fields hop (eq_of_beq hz)]
      rfl
    · cases h
  case h_11 => cases h
  case h_3 hop | h_4 hop | h_7 hop | h_8 hop | h_10 hop =>
    exact orReserved_encodes h fun hz => single (wordH0_of_fields hop (eq_of_beq hz))

/-- A frame is the code of the bus primitive it belongs to (R105). -/
theorem encode_decodeFrame (f : Frame) : encode (decodeFrame f) = .frame f := by
  have hf : frameBits (f.getLsbD 8) (f.extractLsb' 0 8) = f := by unfold frameBits; grind
  rcases decodeFrame_cases f with ⟨hdc, e⟩ | ⟨hdc, e⟩ <;> rw [hdc] at hf <;> rw [e, encode, hf]

/-- Settles O2. -/
theorem hostDecodeReadsEncodedWords : Obligations.HostDecodeReadsEncodedWords :=
  fun _ _ rest hwf he => decodeHost_encode hwf he rest

/-- Settles O3: layer by layer, the decoder reads the code back. -/
theorem decodeReversesEncode : Obligations.DecodeReversesEncode := by
  intro i hwf
  cases he : encode i with
  | host ws =>
    have hd : decodeHost ws = .ok i [] := by simpa using decodeHost_encode hwf he []
    simp only [decode, hd]
  | phase p => simp only [decode, decodePhase_encode he]
  | frame f => simp only [decode, decodeFrame_encode he]

/-- Settles O4: each decoder's answer encodes to what it read. -/
theorem decodedWordsAreTheOperationsCode : Obligations.DecodedWordsAreTheOperationsCode :=
  ⟨fun _ _ _ h => ⟨(decodeHost_ok h).2, decodeHost_encodes h⟩, fun _ _ => encode_of_decodePhase, by decide,
    encode_decodeFrame⟩

end Sys2Proof
end

section
/-! The rows of the opcode table select exactly the words with their opcode and no reserved bit, and the decoder rejects
the others (R101, R102). -/

namespace Sys2Proof

/-- The word's opcode is one of the ten, and the fields R91 shows as 0 beside it are 0 (R91, R102). -/
def legalHeader (w : HWord) : Bool :=
  match (w.extractLsb' 28 4).toNat with
  | 1 => w.extractLsb' 2 26 == 0#26
  | 2 => w.extractLsb' 2 2 == 0#2
  | 3 | 4 | 7 | 8 | 10 => w.extractLsb' 0 28 == 0#28
  | 5 | 6 | 9 => w.extractLsb' 8 20 == 0#20
  | _ => false

/-! ### Which words a row selects (R101) -/

/-- The opcode in a row's pattern (R91, R101). -/
def HostRow.opcode (r : HostRow) : BitVec 4 := r.pattern.extractLsb' 28 4

/-- A row whose mask keeps the opcode and one field, 0 in its pattern, selects the words with its opcode and that field
0; the other bits are the operand's. -/
theorem selects_eq {r : HostRow} {w : HWord} (start len : Nat)
    (hmask : ∀ i < 32, r.mask.getLsbD i = (decide (28 ≤ i) || decide (start ≤ i) && decide (i < start + len)))
    (hpattern : ∀ i < 28, r.pattern.getLsbD i = false) (hfield : start + len ≤ 28) :
    r.selects w = (w.extractLsb' 28 4 == r.opcode && w.extractLsb' start len == 0#len) := by
  rw [Bool.eq_iff_iff, HostRow.selects, HostRow.opcode, Bool.and_eq_true, beq_iff_eq, beq_iff_eq, beq_iff_eq]
  constructor
  · intro h
    refine ⟨by grind, BitVec.eq_of_getLsbD_eq fun i hi => ?_⟩
    have hbit := congrArg (BitVec.getLsbD · (start + i)) h
    grind
  · rintro ⟨hop, hzero⟩
    refine BitVec.eq_of_getLsbD_eq fun i hi => ?_
    have hopbit := congrArg (BitVec.getLsbD · (i - 28)) hop
    have hbit := congrArg (BitVec.getLsbD · (i - start)) hzero
    grind

/-- Some row selects the word exactly when its opcode is one of the ten and its reserved bits are 0. -/
theorem any_selects_eq_legalHeader (w : HWord) : (hostTable.any fun r => r.selects w) = legalHeader w := by
  simp (disch := decide) only [hostTable, List.any_cons, List.any_nil, selects_eq 2 26, selects_eq 2 2,
    selects_eq 0 28, selects_eq 8 20, HostRow.opcode, legalHeader]
  generalize (w.extractLsb' 2 26 == 0#26) = fill, (w.extractLsb' 2 2 == 0#2) = pixel,
    (w.extractLsb' 0 28 == 0#28) = bare, (w.extractLsb' 8 20 == 0#20) = byte, w.extractLsb' 28 4 = op
  revert op fill pixel bare byte
  decide

theorem row_selects_opcode {r : HostRow} {w : HWord} (hr : r ∈ hostTable) (h : r.selects w = true) :
    r.opcode = w.extractLsb' 28 4 := by
  have hmask : ∀ r ∈ hostTable, r.mask.extractLsb' 28 4 = BitVec.allOnes 4 := by decide
  rw [HostRow.opcode, ← eq_of_beq h, BitVec.extractLsb'_and, hmask r hr, BitVec.and_allOnes]

/-- The opcodes of the ten rows differ, so a word selects at most one (R101). -/
theorem selected_rows_le_one (w : HWord) : (hostTable.filter fun r => r.selects w).length ≤ 1 := by
  have hdistinct : ∀ op : BitVec 4, hostTable.countP (fun r => r.opcode == op) ≤ 1 := by decide
  calc (hostTable.filter fun r => r.selects w).length
      = hostTable.countP fun r => r.selects w := List.countP_eq_length_filter.symm
    _ ≤ hostTable.countP fun r => r.opcode == w.extractLsb' 28 4 :=
        List.countP_mono_left fun r hr h => beq_iff_eq.2 (row_selects_opcode hr h)
    _ ≤ 1 := hdistinct _

/-! ### Which words the decoder rejects (R102) -/

/-- After a legal header only the payload's padding is rejected (R99). -/
theorem decodeCommand_illegal {n : Nat} {why : Illegal} {ws rest : List HWord}
    (h : decodeCommand n ws = .illegal why rest) : why = .padding := by
  unfold decodeCommand at h
  split at h
  · cases h
  · dsimp only at h
    split at h <;> cases h
    rfl

/-- A word without a legal header is rejected whatever follows it. -/
theorem decodeHost_of_not_legalHeader {w : HWord} (h : legalHeader w = false) :
    ∃ why, why ≠ Illegal.padding ∧ ∀ rest, decodeHost (w :: rest) = .illegal why rest := by
  unfold legalHeader at h
  split at h
  case h_1 hop | h_2 hop | h_3 hop | h_4 hop | h_5 hop | h_6 hop | h_7 hop | h_8 hop | h_9 hop | h_10 hop =>
    exact ⟨.reservedBit, nofun, fun _ => by simp [decodeHost, hop, h, orReserved]⟩
  case h_11 =>
    exact ⟨.reservedOpcode, nofun, fun _ => by unfold decodeHost; split <;> simp_all⟩

/-- Behind a legal header the decoder finds fault with padding alone. -/
theorem decodeHost_of_legalHeader {w : HWord} {rest rest' : List HWord} {why : Illegal} (h : legalHeader w = true)
    (hd : decodeHost (w :: rest) = .illegal why rest') : why = .padding := by
  unfold legalHeader at h
  unfold decodeHost at hd
  split at h
  case h_1 hop | h_2 hop | h_3 hop | h_4 hop | h_5 hop | h_6 hop | h_7 hop | h_8 hop | h_9 hop =>
    simp [hop, h, orReserved] at hd
  case h_10 hop =>
    simp only [hop, h, if_true] at hd
    exact decodeCommand_illegal hd
  case h_11 => cases h

/-- Settles O5: the rows' opcodes differ, and both the table and the decoder ask for a legal header. -/
theorem wordIsIllegalUnlessOneRowSelectsIt : Obligations.WordIsIllegalUnlessOneRowSelectsIt := by
  intro w
  refine ⟨selected_rows_le_one w, ?_⟩
  have hnone : (∀ r ∈ hostTable, r.selects w = false) ↔ legalHeader w = false := by
    simp [← any_selects_eq_legalHeader]
  rw [hnone]
  refine ⟨decodeHost_of_not_legalHeader, fun ⟨why, hwhy, hd⟩ => ?_⟩
  by_contra h
  exact hwhy (decodeHost_of_legalHeader (by simpa using h) (hd []))

end Sys2Proof
end

section
/-! Written-out words, illegal words at the port, and RDSTAT (R97, R100, R102, R151, R222). -/

namespace Sys2Proof.Machine

/-- Settles O1, by running the decoder on the words. -/
theorem writtenWordsDecode : Obligations.WrittenWordsDecode := by
  unfold Obligations.WrittenWordsDecode
  decide

/-! ### Responses that change nothing else (R96, R222) -/

theorem onlyResponded_respond (s : State) (r : Response) : OnlyResponded s (s.respond r) r := by
  simp [OnlyResponded, Responded, SameLogical, SameDerived, SameCells, SameRegisters, SameStamps, SamePlace, SameBus,
    SameAround]

/-- With no operation in flight, a refusal only adds its response. -/
theorem refuse_of_idle {s : State} (hop : s.hop = none) (hph : s.hph = .issue) (e : ErrCode) :
    s.refuse e = { s with responses := s.responses ++ [.err e] } := by
  rw [State.refuse, State.respond, ← hop, ← hph]

/-- Settles O6: the turn fetches no operation, and refuses the word. -/
theorem illegalWordChangesNothing : Obligations.IllegalWordChangesNothing := by
  intro s g k ts why rest hsched hfs hop hph hd
  refine step_of_fetch_quiet ?_
  rw [takeTurn_of_sched hsched]
  simp [fetch, fetchHost, hfs, hop, hd, refuse_of_idle, hph]

/-! ### The status word (R97) -/

theorem statusWord_runState (r : RunState) (c p : Bool) (q : Option Byte) :
    (statusWord r c p q).extractLsb' 0 3 = r.code := BitVec.extractLsb'_append_eq_right

theorem statusWord_flags (r : RunState) (c p : Bool) (q : Option Byte) :
    (statusWord r c p q).getLsbD 3 = c ∧ (statusWord r c p q).getLsbD 4 = p ∧
      (statusWord r c p q).getLsbD 5 = q.isSome := by
  have hvalid : (creqBits q).1 = BitVec.ofBool q.isSome := by cases q <;> rfl
  unfold statusWord
  grind

theorem statusWord_level (r : RunState) (c p : Bool) (q : Option Byte) :
    (statusWord r c p q).extractLsb' 8 8 = q.getD 0#8 := by
  have hlevel : (creqBits q).2 = q.getD 0#8 := by cases q <;> rfl
  simp (disch := decide) only [statusWord, BitVec.extractLsb'_append_eq_of_le, hlevel,
    BitVec.extractLsb'_append_eq_of_add_le, Nat.reduceSub, BitVec.extractLsb'_eq_self]

theorem statusWord_zeros (r : RunState) (c p : Bool) (q : Option Byte) :
    (statusWord r c p q).extractLsb' 6 2 = 0#2 ∧ (statusWord r c p q).extractLsb' 16 16 = 0#16 := by
  simp (disch := decide) only [statusWord, BitVec.extractLsb'_append_eq_of_le,
    BitVec.extractLsb'_append_eq_of_add_le, Nat.reduceSub, BitVec.extractLsb'_eq_self, and_self]

theorem execRdstat_atOnce {s : State} (h : AtIssue s) : exec .rdstat s =
    .next (s.respond (.status (statusWord s.runState s.copyPending s.pendingCmd s.creq))) := by
  obtain ⟨hph, hgrain⟩ := h
  simp only [exec, execRdstat, hph, hgrain]

/-- Settles O36: the word is read back field by field, and a response changes only the port. -/
theorem rdstatReportsTheCells : Obligations.RdstatReportsTheCells := by
  intro s h
  obtain ⟨hcopy, hcmd, hcreq⟩ := statusWord_flags s.runState s.copyPending s.pendingCmd s.creq
  obtain ⟨hlow, hhigh⟩ := statusWord_zeros s.runState s.copyPending s.pendingCmd s.creq
  exact ⟨_, _, execRdstat_atOnce h, onlyResponded_respond s _, statusWord_runState .., hcopy, hcmd, hcreq, hlow,
    statusWord_level .., hhigh⟩

end Sys2Proof.Machine
end

section
/-! FILL and PIXEL, and the derived planes COMPOSE then shows (R121 to R125, R131, R134). -/

namespace Sys2Proof.Machine

/-! ### FILL at once -/

theorem execFill_atOnce {s : State} {sh : BitVec 2} (h : AtIssue s) :
    exec (.fill sh) s = .next ((s.fillPlanes sh).respond .done) := by
  obtain ⟨here, hgrain⟩ := h
  simp only [exec, execFill, here, hgrain]

/-- FILL's two planes read, at every index, as the solid bytes of the shade's two bits (R121). -/
theorem read_fillPlanes (s : State) (sh : BitVec 2) {i : Nat} (hi : i < planeBytes) :
    (s.fillPlanes sh).la.read i = some (solidByte (shadeA sh)) ∧
      (s.fillPlanes sh).lb.read i = some (solidByte (shadeB sh)) :=
  ⟨Memory.read_ofFn _ hi, Memory.read_ofFn _ hi⟩

theorem byteAt_fillPlanes (s : State) (sh : BitVec 2) {i : Nat} (hi : i < planeBytes) :
    (s.fillPlanes sh).la.byteAt i = solidByte (shadeA sh) ∧ (s.fillPlanes sh).lb.byteAt i = solidByte (shadeB sh) :=
  ⟨Memory.byteAt_ofFn _ hi, Memory.byteAt_ofFn _ hi⟩

/-- Settles O10: FILL's planes are solid, and its writes and the response leave every other field. -/
theorem fillSetsEveryByte : Obligations.FillSetsEveryByte := by
  intro s sh h
  refine ⟨_, execFill_atOnce h, fun i hi => read_fillPlanes s sh hi, ⟨rfl, rfl, rfl⟩, ?_⟩
  simp [SameDerived, SameCells, SameRegisters, SameStamps, SamePlace, SameBus, SameAround]

/-! ### PIXEL off the screen -/

theorem execPixel_offScreen {s : State} {x y : BitVec 12} (sh : BitVec 2) (here : s.hph = .issue)
    (hoff : onScreen x.toInt y.toInt = false) : exec (.pixel x y sh) s = .next (s.respond .done) := by
  simp [exec, execPixel, here, coordinate, hoff]

/-- Settles O13: off the screen the operation only responds. -/
theorem pixelOutOfRangeIsNoOp : Obligations.PixelOutOfRangeIsNoOp := by
  intro s x y sh here hout
  have hoff : onScreen x.toInt y.toInt = false := by
    rw [Bool.eq_false_iff, Ne, onScreen_iff]
    omega
  exact ⟨_, execPixel_offScreen sh here hoff, onlyResponded_respond s .done⟩

/-! ### The two bits of a shade (R93) -/

theorem shadeA_or_shadeB (sh : BitVec 2) : (shadeA sh || shadeB sh) = decide (sh ≠ 0#2) := by
  revert sh
  decide

theorem shadeA_and_shadeB (sh : BitVec 2) : (shadeA sh && shadeB sh) = decide (sh = 3#2) := by
  revert sh
  decide

theorem shadeA_shadeOf (a b : Bool) : shadeA (shadeOf a b) = a := by
  revert a b
  decide

theorem shadeB_shadeOf (a b : Bool) : shadeB (shadeOf a b) = b := by
  revert a b
  decide

theorem shadeA_shade (s : State) (x y : Nat) : shadeA (s.shade x y) = s.la.pixel x y := shadeA_shadeOf ..
theorem shadeB_shade (s : State) (x y : Nat) : shadeB (s.shade x y) = s.lb.pixel x y := shadeB_shadeOf ..

/-- A shade is at least 1, 2 or 3 by the bits COMPOSE puts into the three derived planes (R131, R134). -/
theorem shade_thresholds (sh : BitVec 2) :
    ((shadeA sh || shadeB sh) = true ↔ 1 ≤ sh.toNat) ∧ (shadeB sh = true ↔ 2 ≤ sh.toNat) ∧
      ((shadeA sh && shadeB sh) = true ↔ 3 ≤ sh.toNat) := by
  revert sh
  decide

/-! ### Solid bytes (R121) -/

theorem solidByte_or (a b : Bool) : solidByte a ||| solidByte b = solidByte (a || b) := by
  revert a b
  decide

theorem solidByte_and (a b : Bool) : solidByte a &&& solidByte b = solidByte (a && b) := by
  revert a b
  decide

/-! ### COMPOSE's bytes -/

/-- The derived bytes COMPOSE leaves at an index (R131). -/
theorem read_composeAll (s : State) {i : Nat} (hi : i < planeBytes) :
    s.composeAll.dp0.read i = some (s.la.byteAt i ||| s.lb.byteAt i) ∧
      s.composeAll.dp1.read i = some (s.lb.byteAt i) ∧
      s.composeAll.dp2.read i = some (s.la.byteAt i &&& s.lb.byteAt i) :=
  ⟨Memory.read_ofFn _ hi, Memory.read_ofFn _ hi, Memory.read_ofFn _ hi⟩

/-- Settles O16: COMPOSE joins the solid bytes of the shade's two bits into solid bytes, and leaves the logical planes. -/
theorem fillThenComposeIsUniform : Obligations.FillThenComposeIsUniform := by
  intro s sh i hi
  obtain ⟨hreadA, hreadB⟩ := read_fillPlanes s sh hi
  obtain ⟨ha, hb⟩ := byteAt_fillPlanes s sh hi
  obtain ⟨h0, h1, h2⟩ := read_composeAll (s.fillPlanes sh) hi
  refine ⟨hreadA, hreadB, ?_, ?_, ?_⟩
  · rw [h0, ha, hb, solidByte_or, shadeA_or_shadeB]
    simp only [solidByte, decide_eq_true_eq]
  · rw [h1, hb]
    rfl
  · rw [h2, ha, hb, solidByte_and, shadeA_and_shadeB]
    simp only [solidByte, decide_eq_true_eq]

/-! ### COMPOSE's pixels -/

theorem pixelIndex_lt_of_lt {x y : Nat} (hx : x < 72) (hy : y < 40) : pixelIndex x y < planeBytes := by
  have h := pixelIndex_lt ((onScreen_iff x y).2 (by omega))
  rwa [Int.toNat_natCast, Int.toNat_natCast] at h

/-- The derived planes at a pixel, after COMPOSE, from the logical planes at it (R131). -/
theorem pixel_composeAll (s : State) {x y : Nat} (hxy : pixelIndex x y < planeBytes) :
    s.composeAll.dp0.pixel x y = (s.la.pixel x y || s.lb.pixel x y) ∧
      s.composeAll.dp1.pixel x y = s.lb.pixel x y ∧
      s.composeAll.dp2.pixel x y = (s.la.pixel x y && s.lb.pixel x y) := by
  obtain ⟨h0, h1, h2⟩ := derivedMatch_composeAll s _ hxy
  simp only [Memory.pixel, h0, h1, h2, composeAll_la, composeAll_lb, BitVec.getLsbD_or, BitVec.getLsbD_and, and_self]

/-- After COMPOSE a pixel is on in exactly the first derived planes, as many as its shade (R134). -/
theorem pixel_composeAll_iff_shade (s : State) {x y : Nat} (hxy : pixelIndex x y < planeBytes) :
    (s.composeAll.dp0.pixel x y = true ↔ 1 ≤ (s.shade x y).toNat) ∧
      (s.composeAll.dp1.pixel x y = true ↔ 2 ≤ (s.shade x y).toNat) ∧
      (s.composeAll.dp2.pixel x y = true ↔ 3 ≤ (s.shade x y).toNat) := by
  obtain ⟨h0, h1, h2⟩ := pixel_composeAll s hxy
  have hbits := shade_thresholds (s.shade x y)
  rw [h0, h1, h2]
  rwa [shadeA_shade, shadeB_shade] at hbits

/-- PIXEL's writes give the pixel its shade (R123). -/
theorem shade_plotPixel_same {s : State} {x y : Nat} (sh : BitVec 2) (hs : s.planesOk = true)
    (hxy : pixelIndex x y < planeBytes) : (s.plotPixel x y sh).shade x y = sh := by
  obtain ⟨ha, hb, _⟩ := (State.planesOk_iff s).1 hs
  rw [State.shade, plotPixel_la_eq_plot, plotPixel_lb_eq_plot, Memory.pixel_plot_same ha hxy,
    Memory.pixel_plot_same hb hxy, shadeOf_shade]

/-- Settles O17: PIXEL gives the pixel its shade, and COMPOSE shows that shade. -/
theorem pixelThenComposeDecodesToShade : Obligations.PixelThenComposeDecodesToShade := by
  intro s x y sh hs hx hy
  have hxy := pixelIndex_lt_of_lt hx hy
  have hshown := pixel_composeAll_iff_shade (s.plotPixel x y sh) hxy
  rwa [shade_plotPixel_same sh hs hxy] at hshown

end Sys2Proof.Machine
end

section
/-! COMPOSE at the checkpoint: what it leaves behind, and that it contains each derived plane in the one before
(R131, R134, R135, R169). -/

namespace Sys2Proof.Machine

section Checkpoint
variable {s t : State} {i : Nat}

/-! ### COMPOSE at once -/

/-- Settles O18: the turn is COMPOSE, the clearing of COPYPENDING and the step to WAITSUB, and these write no other
field. -/
theorem maintComposesAndClears : Obligations.MaintComposesAndClears := by
  intro s h hsf hs hreq
  refine ⟨_, execMaint_composes h hsf hs hreq, fun i hi => read_composeAll s hi, rfl, ?_⟩
  simp [PumpAt, Ph.waitsub, SameLogical, SameRegisters, SameStamps, SameBus, SamePort, SameAround]

/-- The three derived planes COMPOSE makes of two logical bits count out their shade (R131, R134). -/
theorem unaryShade_composed (a b : Bool) : unaryShade (a || b) b (a && b) = (shadeOf a b).toNat := by
  revert a b
  decide

/-- Settles O24: the turn leaves COMPOSE's derived planes, whose bits at the pixel count out its shade. -/
theorem composeIsUnaryInThreeSteps : Obligations.ComposeIsUnaryInThreeSteps := by
  intro s t x y h hsf hs hreq hstep hx hy
  rw [execMaint_composes h hsf hs hreq] at hstep
  cases hstep
  have hxy := pixelIndex_lt_of_lt hx hy
  obtain ⟨hone, htwo, hthree⟩ := pixel_composeAll_iff_shade s hxy
  refine ⟨hone, htwo, hthree, ?_⟩
  obtain ⟨h0, h1, h2⟩ := pixel_composeAll s hxy
  simp only [goto_dp0, goto_dp1, goto_dp2, clearCopy_dp0, clearCopy_dp1, clearCopy_dp2, h0, h1, h2]
  exact unaryShade_composed (s.la.pixel x y) (s.lb.pixel x y)

/-! ### Containment (R135) -/

/-- The bytes COMPOSE makes of any pair are contained, each in the one before (R131, R135). -/
theorem derivedBytes_contained (a b : Byte) : (a &&& b) &&& ~~~b = 0#8 ∧ b &&& ~~~(a ||| b) = 0#8 := by
  constructor
  · rw [BitVec.and_assoc, BitVec.and_not_self]
    exact BitVec.and_zero
  · rw [BitVec.not_or, BitVec.and_comm (~~~a), ← BitVec.and_assoc, BitVec.and_not_self]
    exact BitVec.zero_and

theorem ContainedAt.congr (hd : SameDerived s t) (h : ContainedAt s i) : ContainedAt t i := by
  obtain ⟨hd0, hd1, hd2⟩ := hd
  simpa [ContainedAt, hd0, hd1, hd2] using h

/-- Derived bytes that match the logical ones are contained. -/
theorem DerivedAt.contained (h : DerivedAt s i) : ContainedAt s i := by
  obtain ⟨h0, h1, h2⟩ := h
  rw [ContainedAt, h0, h1, h2]
  exact derivedBytes_contained _ _

/-- The derived bytes put at an index are contained, whichever two bytes were read for it. -/
theorem containedAt_putDerived_same (a b : Byte) (hs : s.planesOk = true) (hi : i < planeBytes) :
    ContainedAt (s.putDerived i a b) i := by
  obtain ⟨_, _, h0, h1, h2⟩ := (State.planesOk_iff s).1 hs
  simpa [ContainedAt, Memory.byteAt_write_same, h0, h1, h2, hi] using derivedBytes_contained a b

/-- What a turn of MAINT does to the derived planes: nothing, COMPOSE at once, or one index of a COMPOSE under way
(R131, R169). -/
theorem MaintMove.derived (h : MaintMove s t) :
    SameDerived s t ∨ SameDerived s.composeAll t ∨ ∃ j a b, SameDerived (s.putDerived j a b) t := by
  cases h with
  | copyAtOnce => exact .inr (.inl ⟨rfl, rfl, rfl⟩)
  | composePuts =>
    exact .inr (.inr ⟨_, _, _, oweCompose_dp0 .., oweCompose_dp1 .., oweCompose_dp2 ..⟩)
  | cmdAtOnce => exact .inl (by simp [SameDerived, State.txc])
  | _ => exact .inl ⟨rfl, rfl, rfl⟩

/-- Settles O23, by what the turn does to the derived planes; a put at another index leaves this one's bytes. -/
theorem composeKeepsContainment : Obligations.ComposeKeepsContainment := by
  intro s t i hs hstep hi
  rcases (execMaint_moves hstep).derived with ⟨h0, h1, h2⟩ | hall | ⟨j, a, b, hput⟩
  · exact .inl (by simp only [h0, h1, h2, and_self])
  · exact .inr ((derivedMatch_composeAll s i hi).contained.congr hall)
  · by_cases hji : j = i
    · subst hji
      exact .inr ((containedAt_putDerived_same a b hs hi).congr hput)
    · obtain ⟨h0, h1, h2⟩ := hput
      exact .inl (by simp [h0, h1, h2, Memory.byteAt_write_other _ _ hji])

end Checkpoint
end Sys2Proof.Machine
end

section
/-! The guarantee of CONTRASTS: from its issue to its response its level is tracked (R147, R212). -/

namespace Sys2Proof.Machine

section Contrast
variable {s t : State} {lvl : Byte}

/-! ### The contrast request -/

/-- The request for `lvl` is unserved and any service of it takes that level, or it is served and CADJ is its
CONTRAST_MAP (R147, R212). -/
def ContrastTracked (lvl : Byte) (s : State) : Prop :=
  (s.creq = some lvl ∧ (∀ l, s.pph = .recompute l → l = lvl) ∧
      (s.pph = .clearCreq → contrastAt s.cfg lvl = some s.cadj)) ∨
    (s.creq = none ∧ contrastAt s.cfg lvl = some s.cadj)

theorem contrastGuard_iff (lvl : Byte) (s : State) : ContrastGuard lvl s ↔
    Inv s ∧ s.hop = some (.contrastSync lvl) ∧ s.hph.requested ∧ ContrastTracked lvl s := Iff.rfl

theorem ContrastTracked.congr (h : ContrastTracked lvl s) (hcfg : t.cfg = s.cfg) (hreq : t.creq = s.creq)
    (hcadj : t.cadj = s.cadj) (hp : t.pph = s.pph) : ContrastTracked lvl t := by
  simpa only [ContrastTracked, hcfg, hreq, hcadj, hp] using h

/-- A turn that leaves the request and CADJ, and stands outside the service of a request, keeps track. -/
theorem ContrastTracked.of_not_held (h : ContrastTracked lvl s) (hcfg : t.cfg = s.cfg) (hreq : t.creq = s.creq)
    (hcadj : t.cadj = s.cadj) (hp : t.pph.holdsCreq = false) : ContrastTracked lvl t := by
  rcases h with ⟨hsome, _⟩ | ⟨hnone, hmap⟩
  · exact .inl ⟨hreq.trans hsome, fun l hl => by simp [hl, PumpPhase.holdsCreq] at hp,
      fun hl => by simp [hl, PumpPhase.holdsCreq] at hp⟩
  · exact .inr ⟨hreq.trans hnone, by rwa [hcfg, hcadj]⟩

/-- A request that stands is the tracked one, and what its service has taken or computed is of its level. -/
theorem ContrastTracked.of_standing (h : ContrastTracked lvl s) (hreq : s.creq.isSome = true) :
    s.creq = some lvl ∧ (∀ l, s.pph = .recompute l → l = lvl) ∧
      (s.pph = .clearCreq → contrastAt s.cfg lvl = some s.cadj) :=
  h.resolve_right fun hnone => by simp [hnone.1] at hreq

/-- MAINT keeps track of the contrast request: it takes the tracked level, computes CADJ from it, and then clears the
request (R169, R212). -/
theorem MaintMove.contrastTracked (hm : MaintMove s t) (hI : Inv s) (h : ContrastTracked lvl s) :
    ContrastTracked lvl t := by
  cases hm with
  | creqAtOnce _ _ _ hreq hc =>
    obtain ⟨hlvl, _⟩ := h.of_standing (by rw [hreq]; rfl)
    cases hreq.symm.trans hlvl
    exact .inr ⟨rfl, hc⟩
  | takesCreq _ hreq =>
    obtain ⟨hlvl, _⟩ := h.of_standing (by rw [hreq]; rfl)
    cases hreq.symm.trans hlvl
    exact .inl ⟨hreq, fun l hl => (PumpPhase.recompute.inj hl).symm, nofun⟩
  | recomputes here hc =>
    obtain ⟨hlvl, htaken, _⟩ := h.of_standing (hI.creqHeld (by rw [here]; rfl))
    cases htaken _ here
    exact .inl ⟨hlvl, nofun, fun _ => hc⟩
  | creqServed here =>
    obtain ⟨_, _, hmap⟩ := h.of_standing (hI.creqHeld (by rw [here]; rfl))
    exact .inr ⟨rfl, hmap here⟩
  | composePuts =>
    refine h.of_not_held (by simp) (by simp) (by simp) ?_
    unfold State.oweCompose
    split <;> rfl
  | cmdAtOnce => exact h.of_not_held (by simp [State.txc]) (by simp [State.txc]) (by simp [State.txc]) rfl
  | _ => exact h.of_not_held rfl rfl rfl rfl

/-- Every micro-operation keeps track of the contrast request; all but MAINT leave it, CADJ and its service alone. -/
theorem PumpMove.contrastTracked {i : Instr} (hm : PumpMove s i t) (hI : Inv s) (h : ContrastTracked lvl s) :
    ContrastTracked lvl t := by
  have hcfg := hm.writes.cfg
  cases hm with
  | stays => exact h
  | maint hm => exact hm.contrastTracked hI h
  | brings hb | bringEnds hb => exact h.of_not_held hcfg hb.cells.2.2.2 hb.registers.1 rfl
  | sendsAtOnce hs | sends hs =>
    exact h.of_not_held hcfg (by cases hs <;> simp [State.txc, State.txd])
      (by cases hs <;> simp [State.txc, State.txd]) rfl
  | _ => exact h.of_not_held rfl rfl rfl rfl

/-! ### CONTRASTS and its guard -/

/-- The response of CONTRASTS, with what it guarantees (R147). -/
def ContrastResponds (lvl : Byte) (s t : State) : Prop :=
  t.hop = none ∧ t.responses = s.responses ++ [.done] ∧
    ((s.hph = .readRun ∧ s.runState ≠ .running) ∨ (t.creq = none ∧ contrastAt t.cfg lvl = some t.cadj))

/-- A turn of CONTRASTS under its guard tests RUNSTATE or polls (R147). -/
theorem ContrastGuard.contrast_turn (h : ContrastGuard lvl s) (hexec : execContrastSync lvl s = .next t) :
    ContrastGuard lvl t ∨ ContrastResponds lvl s t := by
  obtain ⟨hI, hop, hreq, htrack⟩ := (contrastGuard_iff lvl s).1 h
  have hIt : Inv t := (execContrastSync_moves hexec).keeps_inv hI hop (hI.hostTx_of_not_sends hreq.not_sends)
  rcases hreq with here | here <;> simp only [execContrastSync, here] at hexec <;> cases hexec
  · by_cases hrun : s.runState = .running
    · rw [State.testRunning, if_pos hrun] at hIt ⊢
      exact .inl ⟨hIt, hop, .inr rfl, htrack⟩
    · rw [State.testRunning, if_neg hrun]
      exact .inr ⟨rfl, rfl, .inl ⟨here, hrun⟩⟩
  · rcases htrack with ⟨hsome, _⟩ | ⟨hnone, hmap⟩
    · rw [State.pollServed, hsome]
      exact .inl h
    · rw [State.pollServed, hnone]
      exact .inr ⟨rfl, rfl, .inr ⟨hnone, hmap⟩⟩

/-- A turn of another agent that keeps track of the request keeps the guard of CONTRASTS. -/
theorem ContrastGuard.of_port (h : ContrastGuard lvl s) (hI : Inv t) (hport : SamePort s t)
    (htrack : ContrastTracked lvl t) : ContrastGuard lvl t := by
  obtain ⟨_, hop, hreq, _⟩ := (contrastGuard_iff lvl s).1 h
  obtain ⟨hhop, hhph, _⟩ := hport
  exact ⟨hI, hhop.trans hop, by rwa [hhph], htrack⟩

/-- Every turn under the guard of CONTRASTS keeps it or is its response. -/
theorem ContrastGuard.turn (h : ContrastGuard lvl s) (hm : TurnMove s t) :
    ContrastGuard lvl t ∨ ContrastResponds lvl s t := by
  obtain ⟨hI, hop, hreq, htrack⟩ := (contrastGuard_iff lvl s).1 h
  have hIt := hm.keeps_inv hI
  cases hm with
  | hostShifts _ hfs => simp [hI.hostTx_of_not_sends hreq.not_sends] at hfs
  | hostGoesOn _ _ hop' _ hexec =>
    obtain rfl := Option.some.inj (hop'.symm.trans hop)
    exact h.contrast_turn hexec
  | hostAccepts _ _ hop' | hostRefuses _ _ _ hop' => simp [hop] at hop'
  | hostIdles => exact .inl h
  | pumpShifts | timebase => exact .inl (h.of_port hIt ⟨rfl, rfl, rfl⟩ (htrack.congr rfl rfl rfl rfl))
  | pumpRuns _ _ hph _ hexec =>
    have hpump := exec_pump_moves (layer_of_encode_phase hph) hexec
    exact .inl (h.of_port hIt hpump.writes.port (hpump.contrastTracked hI htrack))

/-- The issue of CONTRASTS with no request standing comes under its guard: no service of a request is under way
(R147). -/
theorem contrastGuard_of_issue {q : HostPhase} (hI : Inv s) (hop : s.hop = some (.contrastSync lvl))
    (here : s.hph = .issue) (hfree : s.creq = none) (hq : q.requested)
    (hexec : execContrastSync lvl s = .next ((s.setCreq lvl).hostAt q)) :
    ContrastGuard lvl ((s.setCreq lvl).hostAt q) := by
  have hIt := (execContrastSync_moves hexec).keeps_inv hI hop (hI.hostTx_of_not_sends (by rw [here]; rfl))
  have hheld : s.pph.holdsCreq ≠ true := fun hheld => by simpa [hfree] using hI.creqHeld hheld
  exact ⟨hIt, hop, hq, .inl ⟨rfl, fun l hl => absurd (congrArg PumpPhase.holdsCreq hl) hheld,
    fun hl => absurd (congrArg PumpPhase.holdsCreq hl) hheld⟩⟩

/-- Settles O52: the issue comes under the guard, and each kind of turn keeps it or is the response. -/
theorem contrastGuaranteeHoldsUntilResponse : Obligations.ContrastGuaranteeHoldsUntilResponse := by
  refine ⟨fun s lvl hI hop here hfree hrun => ?_, fun s t lvl h hstep => ?_⟩
  · cases hg : turnGrain s.turn with
    | atOnce =>
      have hexec : execContrastSync lvl s = .next ((s.setCreq lvl).hostAt .poll) := by
        simp [execContrastSync, here, hg, State.testRunning, hrun hg]
      exact ⟨_, hexec, contrastGuard_of_issue hI hop here hfree (.inr rfl) hexec⟩
    | stepwise =>
      have hexec : execContrastSync lvl s = .next ((s.setCreq lvl).hostAt .readRun) := by
        simp [execContrastSync, here, hg]
      exact ⟨_, hexec, contrastGuard_of_issue hI hop here hfree (.inl rfl) hexec⟩
  · have hguard : ContrastGuard lvl s.takeTurn := by
      obtain ⟨hI, _, _, htrack⟩ := (contrastGuard_iff lvl s).1 h
      exact h.of_port hI.takeTurn (by simp [SamePort]) (htrack.congr (by simp) (by simp) (by simp) (by simp))
    simpa [ContrastResponds] using hguard.turn (step_moves hstep)

end Contrast
end Sys2Proof.Machine
end

section
/-! The control operations taken at once, refused, or waiting, and the same taken one step in a turn (R140 to R151,
R222, R224). -/

namespace Sys2Proof.Machine

section Control
variable {s : State} {bytes : List Byte} {lvl : Byte}

/-! ### SHOW, SHOWA, CONTRAST, CONTRASTS -/

theorem testRunning_running (hrun : s.runState = .running) : s.testRunning = s.hostAt .poll := if_pos hrun

theorem testRunning_not_running (hrun : s.runState ≠ .running) : s.testRunning = s.respond .done := if_neg hrun

theorem execShowSync_atOnce (h : AtIssue s) : exec .showSync s = .next s.setCopy.testRunning := by
  obtain ⟨here, hgrain⟩ := h
  simp only [exec, execShowSync, here, hgrain]

theorem execShowSync_poll (here : s.hph = .poll) : exec .showSync s = .next (s.pollServed (!s.copyPending)) := by
  simp only [exec, execShowSync, here]

theorem execContrastSync_atOnce (h : AtIssue s) :
    exec (.contrastSync lvl) s = .next (s.setCreq lvl).testRunning := by
  obtain ⟨here, hgrain⟩ := h
  simp only [exec, execContrastSync, here, hgrain]

theorem execContrastSync_poll (here : s.hph = .poll) :
    exec (.contrastSync lvl) s = .next (s.pollServed s.creq.isNone) := by
  simp only [exec, execContrastSync, here]

/-- Settles O25: RUNSTATE decides at the issue, COPYPENDING while it polls. -/
theorem showRespondsOrWaits : Obligations.ShowRespondsOrWaits := by
  refine ⟨fun s h hrun => ?_, fun s h hrun => ?_, fun s here hfree => ?_, fun s here hreq => ?_⟩
  · rw [execShowSync_atOnce h, testRunning_not_running (s := s.setCopy) hrun]
    rfl
  · rw [execShowSync_atOnce h, testRunning_running (s := s.setCopy) hrun]
    rfl
  · refine ⟨_, execShowSync_poll here, ?_⟩
    rw [hfree]
    exact onlyResponded_respond s .done
  · rw [execShowSync_poll here, hreq]
    rfl

/-- Settles O26: neither looks at RUNSTATE or at the turn. -/
theorem requestsWithoutWaiting : Obligations.RequestsWithoutWaiting := by
  refine ⟨fun s here => ?_, fun s lvl here => ?_⟩
  · simp only [exec, execShowAsync, here]
    rfl
  · simp only [exec, execContrast, here]
    rfl

/-- Settles O27: RUNSTATE decides at the issue, CREQ while it polls. -/
theorem contrastSyncRespondsOrWaits : Obligations.ContrastSyncRespondsOrWaits := by
  refine ⟨fun s lvl h hrun => ?_, fun s lvl h hrun => ?_, fun s lvl here hfree => ?_, fun s lvl l here hreq => ?_⟩
  · rw [execContrastSync_atOnce h, testRunning_not_running (s := s.setCreq lvl) hrun]
    rfl
  · rw [execContrastSync_atOnce h, testRunning_running (s := s.setCreq lvl) hrun]
    rfl
  · refine ⟨_, execContrastSync_poll here, ?_⟩
    rw [hfree]
    exact onlyResponded_respond s .done
  · rw [execContrastSync_poll here, hreq]
    rfl

/-! ### START elsewhere -/

/-- Settles O32: at its issue START tests the strap and RUNSTATE before it does anything else. -/
theorem startIsNoOpElsewhere : Obligations.StartIsNoOpElsewhere := by
  intro s here helse
  have hnot : ¬ (s.cfg.startMode = .delayed ∧ s.runState = .waiting) := by
    rintro ⟨hstrap, hrun⟩
    simp [hstrap, hrun] at helse
  have hexec : exec .start s = .next (s.respond .done) := by
    simp only [exec, execStart, here, hnot, if_false]
  exact ⟨_, hexec, onlyResponded_respond s .done⟩

/-! ### TEARDOWN -/

/-- The lines a burst leaves (R191, R193; log 14). -/
theorem linesAfter_sendBurst (s : State) (dc : Bool) (bytes : List Byte) (who : Agent) :
    LinesAfter s (s.sendBurst dc bytes who) dc bytes := by
  unfold LinesAfter State.sendBurst
  cases bytes.getLast? with
  | none => exact ⟨rfl, rfl, rfl, rfl⟩
  | some b => exact ⟨rfl, rfl, sckIdle_eq_sckRest _, lastBit_eq_lastBitSent _ _⟩

theorem execTeardown_poll (here : s.hph = .poll) :
    exec .teardown s = .next (if s.runState = .stopped then s.hostAt .restore else s) := by
  simp only [exec, execTeardown, here]

theorem execTeardown_awaitRunning (here : s.hph = .awaitRunning) :
    exec .teardown s = .next (if s.runState = .running then s.hostAt .stop else s) := by
  simp only [exec, execTeardown, here]

theorem execTeardown_stop (here : s.hph = .stop) : exec .teardown s = .next s.requestStop := by
  simp only [exec, execTeardown, here]

/-- TEARDOWN's restore at once: RESTORE_SEQ as HOST's burst, then the response (R148). -/
theorem execTeardown_restore (here : s.hph = .restore) (hgrain : turnGrain s.turn = .atOnce) :
    exec .teardown s = .next ((s.txc s.cfg.restoreSeq .host).respond .done) := by
  simp only [exec, execTeardown, here, hgrain]

theorem execTeardown_running_atOnce (h : AtIssue s) (hrun : s.runState = .running) :
    exec .teardown s = .next s.requestStop := by
  obtain ⟨here, hgrain⟩ := h
  simp only [exec, execTeardown, here, hrun, hgrain]

theorem execTeardown_starting (here : s.hph = .issue) (hrun : s.runState = .starting) :
    exec .teardown s = .next (s.hostAt .awaitRunning) := by
  simp only [exec, execTeardown, here, hrun]

/-- Settles O33, place by place; each place but Restore reads RUNSTATE and goes on, waits or responds. -/
theorem teardownByRunState : Obligations.TeardownByRunState := by
  refine ⟨fun s h hrun => execTeardown_running_atOnce h hrun, fun s here hrun => ?_, fun s here hrun => ?_,
    fun s here hgrain => ?_, fun s here hrun => ?_, fun s here hrun => ?_, fun s here hrun =>
    execTeardown_starting here hrun, fun s here hrun => ?_, fun s here hrun => ?_, fun s here => execTeardown_stop here,
    fun s here hrun => ?_⟩
  · rw [execTeardown_poll here, if_neg hrun]
  · rw [execTeardown_poll here, if_pos hrun]
    rfl
  · refine ⟨_, execTeardown_restore here hgrain, ?_, linesAfter_sendBurst s false s.cfg.restoreSeq .host, ?_⟩
    · exact sendBurst_busLog ..
    · simp [State.txc, Responded, SameLogical, SameDerived, SameCells, SameRegisters, SameStamps, SamePlace, SameAround]
  · exact ⟨s.respond .done, by simp only [exec, execTeardown, here, hrun], onlyResponded_respond s _⟩
  · exact ⟨s.refuse .state, by simp only [exec, execTeardown, here, hrun], onlyResponded_respond s _⟩
  · rw [execTeardown_awaitRunning here, if_neg hrun]
  · rw [execTeardown_awaitRunning here, if_pos hrun]
    rfl
  · simp only [exec, execTeardown, here, hrun]

/-! ### COMMAND -/

theorem lengthOk_iff (c : Cfg) (bytes : List Byte) :
    lengthOk c bytes = true ↔ 0 < bytes.length ∧ bytes.length ≤ c.cmdqMax := by
  simp [lengthOk]

theorem execCommand_atOnce (h : AtIssue s) (hlen : lengthOk s.cfg bytes = true) (hfree : s.pendingCmd = false) :
    exec (.command bytes) s = .next ((s.writeQueue bytes).setCmd.respond .done) := by
  obtain ⟨here, hgrain⟩ := h
  simp [exec, execCommand, here, hgrain, hlen, hfree]

/-- CMDQ_MAX fits the byte CMDQ_LEN under ConfigOK (R29, R221). -/
theorem cmdqMax_lt_of_ok {c : Cfg} (hc : c.ok = true) : c.cmdqMax < 256 := by
  simp only [Cfg.ok, Bool.and_eq_true, decide_eq_true_eq] at hc
  omega

/-- Settles O34: the bytes are written over the head of CMDQ, and their number fits CMDQ_LEN. -/
theorem commandFillsQueue : Obligations.CommandFillsQueue := by
  intro s bytes h hok hsize hpos hmax hfree
  have hlt := cmdqMax_lt_of_ok hok
  refine ⟨_, execCommand_atOnce h ((lengthOk_iff ..).2 ⟨hpos, hmax⟩) hfree, fun k hk => ?_, fun k hk => ?_, ?_, ?_, ?_⟩
  · simp [List.getElem?_append_left hk]
  · simp [List.getElem?_append_right hk, Nat.add_sub_cancel' hk]
  · simp only [respond_cmdq, setCmd_cmdq, writeQueue_cmdq, List.length_append, List.length_drop]
    omega
  · simp only [respond_cmdqLen, setCmd_cmdqLen, writeQueue_cmdqLen, BitVec.toNat_ofNat]
    omega
  · simp [Responded, SameLogical, SameDerived, SameStamps, SamePlace, SameBus, SameAround]

/-- Settles O35: the length is tested first, then PENDINGCMD. -/
theorem commandRefusals : Obligations.CommandRefusals := by
  refine ⟨fun s bytes here hbad => ?_, fun s bytes here hpos hmax hbusy => ?_⟩
  · have hlen : ¬ lengthOk s.cfg bytes = true := by
      rw [lengthOk_iff]
      omega
    exact ⟨s.refuse .len, by simp [exec, execCommand, here, hlen], onlyResponded_respond s _⟩
  · have hlen := (lengthOk_iff s.cfg bytes).2 ⟨hpos, hmax⟩
    exact ⟨s.refuse .busy, by simp only [exec, execCommand, here, hlen, hbusy, if_true], onlyResponded_respond s _⟩

/-! ### Step by step (R140) -/

/-- Operation `i`, taken from `s` one step in each of the turns of `picks`, comes to the state of one at-once turn, but
for the turn recorded. -/
def StepsComeToOnce (s : State) (i : Instr) (picks : List Nat) (k : Nat) : Prop :=
  ∃ t u, runTurns i (Turn.host .stepwise) picks s = .next t ∧ exec i { s with turn := .host .atOnce k } = .next u ∧
    EqUpToTurn u t

/-- After its request is written the test of RUNSTATE has the same result at once and in a turn of its own (R143,
R147). -/
theorem testRunning_eqUpToTurn (s : State) (q : HostPhase) (tn : Turn) :
    EqUpToTurn s.testRunning { s.hostAt q with turn := tn }.testRunning := by
  by_cases hrun : s.runState = .running
  · rw [testRunning_running hrun, testRunning_running (s := { s.hostAt q with turn := tn }) hrun]
    rfl
  · rw [testRunning_not_running hrun, testRunning_not_running (s := { s.hostAt q with turn := tn }) hrun]
    rfl

theorem showSync_stepsComeToOnce (here : s.hph = .issue) (a b k : Nat) : StepsComeToOnce s .showSync [a, b] k := by
  have hissue : exec .showSync { s with turn := .host .stepwise a } =
      .next ({ s with turn := .host .stepwise a }.setCopy.hostAt .readRun) := by
    simp only [exec, execShowSync, here, turnGrain]
  refine ⟨_, _, (runTurns_cons hissue).trans rfl, execShowSync_atOnce ⟨here, rfl⟩, ?_⟩
  exact testRunning_eqUpToTurn { s with turn := .host .atOnce k }.setCopy .readRun (.host .stepwise b)

theorem contrastSync_stepsComeToOnce (here : s.hph = .issue) (a b k : Nat) :
    StepsComeToOnce s (.contrastSync lvl) [a, b] k := by
  have hissue : exec (.contrastSync lvl) { s with turn := .host .stepwise a } =
      .next (({ s with turn := .host .stepwise a }.setCreq lvl).hostAt .readRun) := by
    simp only [exec, execContrastSync, here, turnGrain]
  refine ⟨_, _, (runTurns_cons hissue).trans rfl, execContrastSync_atOnce ⟨here, rfl⟩, ?_⟩
  exact testRunning_eqUpToTurn ({ s with turn := .host .atOnce k }.setCreq lvl) .readRun (.host .stepwise b)

/-- The four cells RDSTAT reads in turn are those it reads at once: nothing writes them between (R151). -/
theorem rdstat_stepsComeToOnce (here : s.hph = .issue) (a b c d k : Nat) :
    StepsComeToOnce s .rdstat [a, b, c, d] k := by
  have hissue : exec .rdstat { s with turn := .host .stepwise a } =
      .next ({ s with turn := .host .stepwise a }.hostAt (.stat1 s.runState)) := by
    simp only [exec, execRdstat, here, turnGrain]
  exact ⟨_, _, (runTurns_cons hissue).trans rfl, execRdstat_atOnce ⟨here, rfl⟩, rfl⟩

theorem command_stepsComeToOnce (here : s.hph = .issue) (hlen : lengthOk s.cfg bytes = true)
    (hfree : s.pendingCmd = false) (a b c k : Nat) : StepsComeToOnce s (.command bytes) [a, b, c] k := by
  have hissue : exec (.command bytes) { s with turn := .host .stepwise a } =
      .next ({ s with turn := .host .stepwise a }.hostAt .queue) := by
    simp [exec, execCommand, here, turnGrain, hlen, hfree]
  exact ⟨_, _, (runTurns_cons hissue).trans rfl, execCommand_atOnce ⟨here, rfl⟩ hlen hfree, rfl⟩

theorem teardown_stepsComeToOnce (here : s.hph = .issue) (hrun : s.runState = .running) (a b k : Nat) :
    StepsComeToOnce s .teardown [a, b] k := by
  have hissue : exec .teardown { s with turn := .host .stepwise a } =
      .next ({ s with turn := .host .stepwise a }.hostAt .stop) := by
    simp only [exec, execTeardown, here, hrun, turnGrain]
  exact ⟨_, _, (runTurns_cons hissue).trans rfl, execTeardown_running_atOnce ⟨here, rfl⟩ hrun, rfl⟩

/-- Settles O28, operation by operation. -/
theorem controlStepByStepEqualsAtOnce : Obligations.ControlStepByStepEqualsAtOnce := by
  intro s i picks k here hcase
  rcases hcase with ⟨rfl, hn⟩ | ⟨⟨lvl, rfl⟩, hn⟩ | ⟨rfl, hn⟩ | ⟨⟨bytes, rfl, hlen⟩, hfree, hn⟩ | ⟨rfl, hrun, hn⟩
  · obtain ⟨a, b, rfl⟩ := List.length_eq_two.1 hn
    exact showSync_stepsComeToOnce here a b k
  · obtain ⟨a, b, rfl⟩ := List.length_eq_two.1 hn
    exact contrastSync_stepsComeToOnce here a b k
  · obtain ⟨a, b, c, d, rfl⟩ := List.length_eq_four.1 hn
    exact rdstat_stepsComeToOnce here a b c d k
  · obtain ⟨a, b, c, rfl⟩ := List.length_eq_three.1 hn
    exact command_stepsComeToOnce here ((lengthOk_iff ..).2 hlen) hfree a b c k
  · obtain ⟨a, b, rfl⟩ := List.length_eq_two.1 hn
    exact teardown_stepsComeToOnce here hrun a b k

end Control
end Sys2Proof.Machine
end

section
/-! Turns of either agent on the bus: a burst shifted out frame by frame comes to the burst sent whole (R191, R192;
log 13). -/

namespace Sys2Proof.Machine

/-! ### Turns of an agent -/

/-- `s` with the turn `tn` recorded, and these turns next. -/
def State.turnTo (s : State) (tn : Turn) (ts : List Turn) : State := { s with turn := tn, sched := ts }

/-- A turn of an agent. -/
def Agent.turnOf (who : Agent) (g : Grain) (k : Nat) : Turn :=
  match who with
  | .host => .host g k
  | .pump => .pump g k

/-- `s` with these frames of an agent left to shift out. -/
def State.withTx (s : State) (who : Agent) (fs : List Frame) : State :=
  match who with
  | .host => { s with hostTx := fs }
  | .pump => { s with pumpTx := fs }

section Frames
variable {s : State} {who : Agent} {g : Grain} {k : Nat} {ts : List Turn} {fs : List Frame} {dc : Bool}

theorem turnGrain_turnOf (who : Agent) (g : Grain) (k : Nat) : turnGrain (who.turnOf g k) = g := by
  cases who <;> rfl

theorem turnTo_sched (h : s.sched = ts) : s.turnTo s.turn ts = s := by
  subst h
  rfl

theorem pendingTx_withTx (s : State) (who : Agent) (fs : List Frame) : (s.withTx who fs).pendingTx who = fs := by
  cases who <;> rfl

theorem withTx_pendingTx (h : s.pendingTx who = fs) : s.withTx who fs = s := by
  subst h
  cases who <;> rfl

/-! ### Bursts frame by frame (R191, R192; log 13) -/

/-- A scheduled turn of an agent with a frame pending shifts out the byte of that frame. -/
theorem step_shifts {b : Byte} (hsched : s.sched = who.turnOf g k :: ts)
    (hpend : s.pendingTx who = frameBits dc b :: fs) :
    step s = .next (((s.turnTo (who.turnOf g k) ts).withTx who fs).sendByte dc b who
      ((s.withTx who fs).moreToSend who dc)) := by
  have hfetch : fetch s.takeTurn =
      .run (decodeFrame (frameBits dc b)) ((s.turnTo (who.turnOf g k) ts).withTx who fs) := by
    rw [takeTurn_of_sched hsched]
    cases who <;> simp only [State.pendingTx] at hpend <;>
      simp [fetch, fetchHost, fetchPump, Agent.turnOf, hpend, State.withTx, State.turnTo]
  rw [step_of_fetch_run hfetch, decodeFrame_frameBits]
  cases dc <;> cases who <;> rfl

/-- A byte of a burst with `bs` behind it, and then the burst of `bs`, are the burst of them all. -/
theorem sendByte_sendBurst (s : State) (dc : Bool) (b : Byte) (bs : List Byte) (who : Agent) :
    (s.sendByte dc b who (!bs.isEmpty)).sendBurst dc bs who = s.sendBurst dc (b :: bs) who := by
  cases bs with
  | nil => rfl
  | cons c cs => simp [State.sendBurst, State.sendByte, List.getLast?_cons]

/-- A burst leaves the turn and the schedule, and looks at neither. -/
theorem sendBurst_turnTo (s : State) (dc : Bool) (bytes : List Byte) (who : Agent) (tn : Turn) (ts : List Turn) :
    (s.turnTo tn ts).sendBurst dc bytes who = (s.sendBurst dc bytes who).turnTo tn ts := by
  unfold State.sendBurst
  cases bytes.getLast? <;> rfl

/-- The next frame belongs to the burst as long as the burst has bytes left. -/
theorem moreToSend_framesOf (hother : ∀ f ∈ fs.head?, f.getLsbD 8 ≠ dc) (bytes : List Byte) :
    (s.withTx who (framesOf dc bytes ++ fs)).moreToSend who dc = !bytes.isEmpty := by
  unfold State.moreToSend
  rw [pendingTx_withTx]
  cases bytes with
  | nil =>
    cases fs with
    | nil => rfl
    | cons f rest => simpa [framesOf] using hother f rfl
  | cons b bs => simpa [framesOf] using frameBits_dc dc b

/-- A turn that shifts out the first byte of a burst; behind the burst stand no frame or the frames of a burst with the
other level of DC. -/
theorem step_burst {b : Byte} {bs : List Byte} (hother : ∀ f ∈ fs.head?, f.getLsbD 8 ≠ dc)
    (hpend : s.pendingTx who = framesOf dc (b :: bs) ++ fs) (hsched : s.sched = who.turnOf g k :: ts) :
    ∃ v, step s = .next v ∧ v.pendingTx who = framesOf dc bs ++ fs ∧ v.sched = ts ∧
      v.withTx who fs = ((s.withTx who fs).turnTo (who.turnOf g k) ts).sendByte dc b who (!bs.isEmpty) := by
  have hstep := step_shifts (fs := framesOf dc bs ++ fs) hsched hpend
  rw [moreToSend_framesOf hother] at hstep
  exact ⟨_, hstep, by cases who <;> rfl, by cases who <;> rfl, by cases who <;> rfl⟩

/-- The frames of a burst, shifted out one in a turn of their agent, come to the burst sent whole. -/
theorem run_frames (hother : ∀ f ∈ fs.head?, f.getLsbD 8 ≠ dc) (bytes : List Byte)
    (hpend : s.pendingTx who = framesOf dc bytes ++ fs)
    (hsched : s.sched = List.replicate bytes.length (who.turnOf g k) ++ ts) :
    ∃ tn, Host.Core.run core bytes.length s = .next (((s.withTx who fs).sendBurst dc bytes who).turnTo tn ts) := by
  induction bytes generalizing s with
  | nil =>
    refine ⟨s.turn, congrArg Host.Outcome.next ?_⟩
    have hnone : s.withTx who fs = s := withTx_pendingTx hpend
    rw [hnone, sendBurst_nil]
    exact (turnTo_sched hsched).symm
  | cons b bs ih =>
    obtain ⟨v, hstep, hpend', hsched', hv⟩ := step_burst hother hpend hsched
    obtain ⟨tn, hrun⟩ := ih hpend' hsched'
    refine ⟨tn, (run_succ (M := core) hstep).trans (hrun.trans ?_)⟩
    rw [hv, sendByte_sendBurst, sendBurst_turnTo]
    rfl

/-- An agent with no frame pending that is handed a burst shifts it out over that many turns. -/
theorem run_burst (hs : s.pendingTx who = []) (bytes : List Byte) (tn : Turn) :
    ∃ tn', Host.Core.run core bytes.length ((s.withTx who (framesOf dc bytes)).turnTo tn
      (List.replicate bytes.length (who.turnOf g k) ++ ts)) = .next ((s.sendBurst dc bytes who).turnTo tn' ts) := by
  obtain ⟨tn', hrun⟩ := run_frames (who := who) (g := g) (k := k) (ts := ts) (dc := dc) (fs := []) (by simp) bytes
    (s := (s.withTx who (framesOf dc bytes)).turnTo tn (List.replicate bytes.length (who.turnOf g k) ++ ts))
    (by cases who <;> exact (List.append_nil _).symm) rfl
  have hnone : ((s.withTx who (framesOf dc bytes)).turnTo tn
      (List.replicate bytes.length (who.turnOf g k) ++ ts)).withTx who [] =
      s.turnTo tn (List.replicate bytes.length (who.turnOf g k) ++ ts) := by
    conv_rhs => rw [← withTx_pendingTx hs]
    cases who <;> rfl
  rw [hnone, sendBurst_turnTo] at hrun
  exact ⟨tn', hrun⟩

theorem enqueue_of_pendingTx (hs : s.pendingTx who = []) (fs : List Frame) : s.enqueue who fs = s.withTx who fs := by
  cases who with
  | host =>
    have hnil : s.hostTx = [] := hs
    simp only [State.enqueue, State.withTx, hnil, List.nil_append]
  | pump =>
    have hnil : s.pumpTx = [] := hs
    simp only [State.enqueue, State.withTx, hnil, List.nil_append]

end Frames
end Sys2Proof.Machine
end

section
/-! Bring-ups, of either agent: the items up to the first `wait`, and what all items leave behind (R194; log 3). -/

namespace Sys2Proof.Machine

/-! ### The items up to the first `wait` (R194) -/

section Items
variable {s t : State} {who : Agent} {items rest : List BringItem} {us : Nat} {P : List BringItem → Prop}

/-- Induction over items with no `wait` among them. -/
theorem no_wait_induction (nil : P []) (res : ∀ level rest, P rest → P (.res level :: rest))
    (cmd : ∀ b rest, P rest → P (.cmd b :: rest)) (h : bringWaitAt items = none) : P items := by
  induction items with
  | nil => exact nil
  | cons item rest ih =>
    cases item with
    | res level => exact res level rest (ih h)
    | wait us => cases h
    | cmd b => exact cmd b rest (ih h)

/-- Induction over the items before the first `wait`. -/
theorem wait_induction (wait : P (.wait us :: rest)) (res : ∀ level rest, P rest → P (.res level :: rest))
    (cmd : ∀ b rest, P rest → P (.cmd b :: rest)) (h : bringWaitAt items = some (us, rest)) : P items := by
  induction items with
  | nil => cases h
  | cons item rest' ih =>
    cases item with
    | res level => exact res level rest' (ih h)
    | wait us' => cases h; exact wait
    | cmd b => exact cmd b rest' (ih h)

/-- Induction over a bring-up from `wait` to `wait`. -/
theorem waits_induction (done : ∀ items, bringWaitAt items = none → P items)
    (wait : ∀ items us rest, bringWaitAt items = some (us, rest) → P rest → P items) (items : List BringItem) :
    P items := by
  induction hn : items.length using Nat.strong_induction_on generalizing items with
  | _ n ih =>
    cases h : bringWaitAt items with
    | none => exact done items h
    | some w =>
      have hlt : w.2.length < items.length :=
        wait_induction (P := fun l => w.2.length < l.length) (Nat.lt_succ_self _)
          (fun _ _ hlt => Nat.lt_succ_of_lt hlt) (fun _ _ hlt => Nat.lt_succ_of_lt hlt) h
      exact wait items w.1 w.2 h (ih _ (hn ▸ hlt) w.2 rfl)

theorem bringHead_of_no_wait (h : bringWaitAt items = none) : bringHead items = items :=
  no_wait_induction (P := fun l => bringHead l = l) rfl (fun _ _ ih => congrArg _ ih) (fun _ _ ih => congrArg _ ih) h

theorem bringWaitAt_bringHead (items : List BringItem) : bringWaitAt (bringHead items) = none := by
  induction items with
  | nil => rfl
  | cons item rest ih =>
    cases item with
    | res level => exact ih
    | wait us => rfl
    | cmd b => exact ih

theorem bringWaits_of_no_wait (h : bringWaitAt items = none) : bringWaits items = 0 :=
  no_wait_induction (P := fun l => bringWaits l = 0) rfl (fun _ _ ih => ih) (fun _ _ ih => ih) h

theorem onceTurns_of_no_wait (mk : Turn) (h : bringWaitAt items = none) : onceTurns mk items = [mk] :=
  no_wait_induction (P := fun l => onceTurns mk l = [mk]) rfl (fun _ _ ih => ih) (fun _ _ ih => ih) h

theorem onceTurns_of_wait (mk : Turn) (h : bringWaitAt items = some (us, rest)) :
    onceTurns mk items = mk :: .timebase us :: onceTurns mk rest :=
  wait_induction (P := fun l => onceTurns mk l = mk :: .timebase us :: onceTurns mk rest) rfl (fun _ _ ih => ih)
    (fun _ _ ih => ih) h

/-! ### What a whole bring-up leaves (R194) -/

/-- The state after one item of a bring-up by `who`, a `wait` having taken exactly its time. -/
def State.afterItem (s : State) (who : Agent) : BringItem → State
  | .res level => s.driveRes level
  | .wait us => (s.beginWait us).advance us
  | .cmd b => s.txc [b] who

/-- The state after all items of a bring-up by `who`, each `wait` having taken exactly its time. -/
def State.broughtThrough (s : State) (who : Agent) : List BringItem → State
  | [] => s
  | item :: rest => (s.afterItem who item).broughtThrough who rest

theorem bringUp_of_no_wait (s : State) (who : Agent) (h : bringWaitAt items = none) :
    s.bringUp who items = (s.broughtThrough who items, none) :=
  no_wait_induction (P := fun l => ∀ s : State, s.bringUp who l = (s.broughtThrough who l, none)) (fun _ => rfl)
    (fun _ _ ih _ => ih _) (fun _ _ ih _ => ih _) h s

/-- At once a bring-up goes to its first `wait` and begins it (log 3). -/
theorem bringUp_of_wait (s : State) (who : Agent) (h : bringWaitAt items = some (us, rest)) :
    s.bringUp who items = ((s.broughtThrough who (bringHead items)).beginWait us, some rest) :=
  wait_induction
    (P := fun l => ∀ s : State, s.bringUp who l = ((s.broughtThrough who (bringHead l)).beginWait us, some rest))
    (fun _ => rfl) (fun _ _ ih _ => ih _) (fun _ _ ih _ => ih _) h s

theorem broughtThrough_of_wait (s : State) (who : Agent) (h : bringWaitAt items = some (us, rest)) :
    s.broughtThrough who items =
      (((s.broughtThrough who (bringHead items)).beginWait us).advance us).broughtThrough who rest :=
  wait_induction
    (P := fun l => ∀ s : State, s.broughtThrough who l =
      (((s.broughtThrough who (bringHead l)).beginWait us).advance us).broughtThrough who rest)
    (fun _ => rfl) (fun _ _ ih _ => ih _) (fun _ _ ih _ => ih _) h s

/-- The lines after a first command byte and the bytes behind it, each a burst of its own (log 23). -/
theorem LinesAfter.cons {b : Byte} {bytes : List Byte} (h : LinesAfter (s.txc [b] who) t false bytes) :
    LinesAfter s t false (b :: bytes) := by
  unfold LinesAfter at *
  rw [List.getLast?_cons]
  cases hlast : bytes.getLast? with
  | none =>
    simp only [hlast] at h
    obtain ⟨hdc, hcs, hsck, hsdo⟩ := h
    exact ⟨hdc, hcs, hsck.trans (sckIdle_eq_sckRest _), hsdo.trans (lastBit_eq_lastBitSent _ _)⟩
  | some c =>
    simp only [hlast] at h
    exact h

/-- What a bring-up leaves: the lines of its last command byte, RES at its last level, its events and its time; and
everything else as it was. -/
theorem broughtThrough_frame (s : State) (who : Agent) (items : List BringItem) :
    ∃ sdo sck dc cs, LinesAfter s (s.broughtThrough who items) false (bringCmds items) ∧
      s.broughtThrough who items = { s with
        sdo := sdo, sck := sck, dc := dc, cs := cs, res := bringRes s.res items
        busLog := s.busLog ++ bringEvents who items, now := s.now + bringWaits items
        waitLeft := if (bringWaitAt items).isNone then s.waitLeft else 0 } := by
  induction items generalizing s with
  | nil =>
    refine ⟨s.sdo, s.sck, s.dc, s.cs, ⟨rfl, rfl, rfl, rfl⟩, ?_⟩
    simp [State.broughtThrough, bringRes, bringEvents, bringWaits, bringWaitAt]
  | cons item rest ih =>
    cases item with
    | res level =>
      obtain ⟨sdo, sck, dc, cs, hlines, e⟩ := ih (s.driveRes level)
      exact ⟨sdo, sck, dc, cs, hlines, e.trans (by simp [bringEvents, bringRes, bringWaits, bringWaitAt])⟩
    | wait us =>
      obtain ⟨sdo, sck, dc, cs, hlines, e⟩ := ih ((s.beginWait us).advance us)
      exact ⟨sdo, sck, dc, cs, hlines,
        e.trans (by simp [bringEvents, bringRes, bringWaits, bringWaitAt, Nat.add_assoc])⟩
    | cmd b =>
      obtain ⟨sdo, sck, dc, cs, hlines, e⟩ := ih (s.txc [b] who)
      exact ⟨sdo, sck, dc, cs, hlines.cons,
        e.trans (by simp [bringEvents, bringRes, bringWaits, bringWaitAt, State.txc, sendBurst_singleton])⟩

theorem broughtThrough_sched (s : State) (who : Agent) (items : List BringItem) :
    (s.broughtThrough who items).sched = s.sched := by
  obtain ⟨_, _, _, _, _, e⟩ := broughtThrough_frame s who items
  rw [e]

/-- A change of the state that commutes with the effect of each item commutes with a whole bring-up. -/
theorem broughtThrough_comm {f : State → State} (hf : ∀ v item, f (v.afterItem who item) = (f v).afterItem who item)
    (s : State) (items : List BringItem) : f (s.broughtThrough who items) = (f s).broughtThrough who items := by
  induction items generalizing s with
  | nil => rfl
  | cons item rest ih => rw [State.broughtThrough, ih, hf, State.broughtThrough]

end Items
end Sys2Proof.Machine
end

section
/-! The turns of a bring-up at either grain, with its waits between, and of TEARDOWN's restore (R141, R148, R162,
R194). -/

namespace Sys2Proof.Machine

/-! ### A turn of a bring-up -/

/-- The operation in which an agent brings up (R141, R162). -/
def Agent.bringOp : Agent → Instr
  | .host => .start
  | .pump => .bringup

/-- The turns of `who` run its bring-up operation: no frame of its bursts is pending. -/
def InBringOp (who : Agent) (s : State) : Prop :=
  s.pendingTx who = [] ∧
    match who with
    | .host => s.hop = some .start
    | .pump => s.ph = Ph.bringup

/-- The bring-up operation of `who` is at its beginning and does bring up (R141, R162). -/
def BringBegins (who : Agent) (s : State) : Prop :=
  match who with
  | .host => s.hph = .issue ∧ s.cfg.startMode = .delayed ∧ s.runState = .waiting
  | .pump => s.pph = .start

/-- The bring-up of `who` owes these items, and no `wait` of it is under way. -/
def BringGoesOn (who : Agent) (items : List BringItem) (s : State) : Prop :=
  s.waitLeft = 0 ∧
    match who with
    | .host => s.hph = .bring items
    | .pump => s.pph = .bring items

/-- The next turn of `who` takes up these items. -/
def BringTakesUp (who : Agent) (items : List BringItem) (s : State) : Prop :=
  (BringBegins who s ∧ items = s.cfg.bringupSeq) ∨ BringGoesOn who items s

/-- The bring-up of `who` goes on with these items owed. -/
def State.bringAt (s : State) (who : Agent) (items : List BringItem) : State :=
  match who with
  | .host => s.hostAt (.bring items)
  | .pump => s.pumpAt (.bring items)

/-- The bring-up of `who` is done: RUNSTATE is Running and the operation has ended (R141, R162). -/
def State.bringOver (s : State) (who : Agent) : State :=
  match who with
  | .host => s.release
  | .pump => s.broughtUp

/-- What a turn of a bring-up comes to, from the items it leaves owed. -/
def State.bringOwes (who : Agent) (r : State × Option (List BringItem)) : State :=
  match r.2 with
  | some items => r.1.bringAt who items
  | none => r.1.bringOver who

section Bring
variable {s : State} {who : Agent} {items : List BringItem} {g : Grain} {k : Nat} {ts : List Turn} {us : Nat}

/-- At its beginning a bring-up taken step by step only goes to its first item. -/
theorem exec_bringOp_begins (h : BringBegins who s) :
    exec who.bringOp s = .next (if turnGrain s.turn = .stepwise then s.bringAt who s.cfg.bringupSeq
      else State.bringOwes who (s.bringUp who s.cfg.bringupSeq)) := by
  cases who with
  | host =>
    obtain ⟨here, hboth⟩ := h
    cases hg : turnGrain s.turn <;> simp only [Agent.bringOp, exec, execStart, here, if_pos hboth, hg] <;> rfl
  | pump =>
    have here : s.pph = .start := h
    cases hg : turnGrain s.turn <;> simp only [Agent.bringOp, exec, execBringup, here, hg] <;> rfl

theorem exec_bringOp_goesOn (h : BringGoesOn who items s) :
    exec who.bringOp s = .next (State.bringOwes who (s.bringTurn who items)) := by
  obtain ⟨hwait, here⟩ := h
  cases who <;> simp only at here
  · simp only [Agent.bringOp, exec, execStart, here, if_pos hwait]
    rfl
  · simp only [Agent.bringOp, exec, execBringup, here, if_pos hwait]
    rfl

theorem exec_bringOp_atOnce (h : BringTakesUp who items s) (hg : turnGrain s.turn = .atOnce) :
    exec who.bringOp s = .next (State.bringOwes who (s.bringUp who items)) := by
  rcases h with ⟨h, rfl⟩ | h
  · rw [exec_bringOp_begins h, hg, if_neg nofun]
  · rw [exec_bringOp_goesOn h, State.bringTurn, hg]

/-- A scheduled turn of an agent in its bring-up runs the bring-up operation. -/
theorem step_inBringOp (h : InBringOp who s) (hsched : s.sched = who.turnOf g k :: ts) :
    step s = exec who.bringOp (s.turnTo (who.turnOf g k) ts) := by
  obtain ⟨_, hhost, _, hpump, _⟩ := turnRunsItsOperation
  obtain ⟨htx, hop⟩ := h
  cases who with
  | host => exact hhost s g k ts .start hsched htx hop
  | pump => exact hpump s g k ts .bringup (congrArg Code.phase hop.symm) hsched htx

theorem step_timebase (hsched : s.sched = .timebase us :: ts) :
    step s = .next ((s.turnTo (.timebase us) ts).advance us) := by
  obtain ⟨_, _, _, _, _, _, htime⟩ := turnRunsItsOperation
  exact htime s us ts hsched

theorem step_bringItem (h : InBringOp who s) (hgo : BringGoesOn who items s)
    (hsched : s.sched = who.turnOf .stepwise k :: ts) :
    step s = .next (State.bringOwes who ((s.turnTo (who.turnOf .stepwise k) ts).bringItem who items)) := by
  have hgrain : turnGrain (s.turnTo (who.turnOf .stepwise k) ts).turn = .stepwise := turnGrain_turnOf who .stepwise k
  rw [step_inBringOp h hsched]
  refine (exec_bringOp_goesOn (s := s.turnTo (who.turnOf .stepwise k) ts) hgo).trans ?_
  rw [State.bringTurn, hgrain]

theorem step_bringUp (h : InBringOp who s) (hup : BringTakesUp who items s)
    (hsched : s.sched = who.turnOf .atOnce k :: ts) :
    step s = .next (State.bringOwes who ((s.turnTo (who.turnOf .atOnce k) ts).bringUp who items)) := by
  rw [step_inBringOp h hsched]
  exact exec_bringOp_atOnce hup (turnGrain_turnOf who .atOnce k)

/-! ### The turns of a whole bring-up -/

/-- `s` with its bring-up over, `tn` the turn recorded and these turns next. -/
def State.overTo (s : State) (who : Agent) (tn : Turn) (ts : List Turn) : State := (s.bringOver who).turnTo tn ts

theorem overTo_afterItem (s : State) (who : Agent) (item : BringItem) (tn : Turn) (ts : List Turn) :
    (s.afterItem who item).overTo who tn ts = (s.overTo who tn ts).afterItem who item := by
  cases item <;> cases who <;> rfl

theorem overTo_broughtThrough (s : State) (who : Agent) (items : List BringItem) (tn : Turn) (ts : List Turn) :
    (s.broughtThrough who items).overTo who tn ts = (s.overTo who tn ts).broughtThrough who items :=
  broughtThrough_comm (f := (State.overTo · who tn ts)) (fun v item => overTo_afterItem v who item tn ts) s items

theorem InBringOp.afterItem (h : InBringOp who s) (item : BringItem) : InBringOp who (s.afterItem who item) := by
  cases item <;> cases who <;> exact h

theorem waitLeft_afterItem (hwait : s.waitLeft = 0) (who : Agent) (item : BringItem) :
    (s.afterItem who item).waitLeft = 0 := by
  cases item with
  | res level => exact hwait
  | wait us => exact Nat.sub_self us
  | cmd b => exact hwait

theorem InBringOp.broughtThrough (h : InBringOp who s) (items : List BringItem) :
    InBringOp who (s.broughtThrough who items) := by
  obtain ⟨_, _, _, _, _, e⟩ := broughtThrough_frame s who items
  rw [e]
  cases who <;> exact h

theorem InBringOp.turnTo (h : InBringOp who s) (tn : Turn) (ts : List Turn) : InBringOp who (s.turnTo tn ts) := by
  cases who <;> exact h

theorem inBringOp_bringAt (h : InBringOp who s) (items : List BringItem) (tn : Turn) (ts : List Turn) :
    InBringOp who ((s.bringAt who items).turnTo tn ts) := by
  cases who <;> exact h

theorem bringGoesOn_bringAt (hwait : s.waitLeft = 0) (items : List BringItem) (tn : Turn) (ts : List Turn) :
    BringGoesOn who items ((s.bringAt who items).turnTo tn ts) := by
  cases who <;> exact ⟨hwait, rfl⟩

theorem pendingTx_bringAt (s : State) (who : Agent) (items : List BringItem) :
    (s.bringAt who items).pendingTx who = s.pendingTx who := by
  cases who <;> rfl

theorem overTo_bringAt (s : State) (who : Agent) (items : List BringItem) (tn tn' : Turn) (ts ts' : List Turn) :
    ((s.bringAt who items).turnTo tn' ts').overTo who tn ts = s.overTo who tn ts := by
  cases who <;> rfl

theorem run_one {v : State} (h : step s = .next v) : Host.Core.run core 1 s = .next v :=
  run_succ (M := core) (n := 0) h

theorem run_two {u v : State} (h : step s = .next u) (h' : step u = .next v) : Host.Core.run core 2 s = .next v :=
  (run_succ (M := core) h).trans (run_succ (M := core) (n := 0) h')

/-- A `wait` item takes a turn that begins it, and a turn of TIMEBASE of exactly its time ends it (log 26). -/
theorem steps_wait {rest : List BringItem} {v : State} (hv : v.sched = .timebase us :: ts)
    (hstep : step s = .next ((v.beginWait us).bringAt who rest)) :
    Host.Core.run core 2 s = .next (((v.afterItem who (.wait us)).bringAt who rest).turnTo (.timebase us) ts) := by
  refine (run_two hstep (step_timebase (us := us) (ts := ts) (by cases who <;> exact hv))).trans ?_
  cases who <;> rfl

/-- A `cmd` item takes two turns step by step: its frame is handed over, then shifted out (log 13). -/
theorem steps_cmd {b : Byte} {rest : List BringItem} {v : State} (hv : v.pendingTx who = [])
    (hsched : v.sched = who.turnOf .stepwise k :: ts)
    (hstep : step s = .next ((v.enqueue who (framesOf false [b])).bringAt who rest)) :
    ∃ tn, Host.Core.run core 2 s = .next (((v.afterItem who (.cmd b)).bringAt who rest).turnTo tn ts) := by
  obtain ⟨tn, hrun⟩ := run_burst (s := v.bringAt who rest) (g := .stepwise) (k := k) (ts := ts) (dc := false)
    ((pendingTx_bringAt v who rest).trans hv) [b] v.turn
  have hu : (v.enqueue who (framesOf false [b])).bringAt who rest =
      ((v.bringAt who rest).withTx who (framesOf false [b])).turnTo v.turn (who.turnOf .stepwise k :: ts) := by
    rw [enqueue_of_pendingTx hv, ← hsched]
    cases who <;> rfl
  rw [hu] at hstep
  refine ⟨tn, (run_succ (M := core) hstep).trans (hrun.trans ?_)⟩
  cases who <;> rfl

/-- The turns one item of a bring-up takes step by step, in turns `mk` of its agent (log 13, log 26). -/
def itemTurns (mk : Turn) : BringItem → List Turn
  | .res _ => [mk]
  | .wait us => [mk, .timebase us]
  | .cmd _ => [mk, mk]

theorem bringTurns_cons (mk : Turn) (item : BringItem) (rest : List BringItem) :
    bringTurns mk (item :: rest) = itemTurns mk item ++ bringTurns mk rest := by
  cases item <;> rfl

/-- Step by step a bring-up goes on, over the turns of an item, to the items behind it. -/
theorem run_itemTurns {item : BringItem} {rest : List BringItem} (h : InBringOp who s)
    (hgo : BringGoesOn who (item :: rest) s) (hsched : s.sched = itemTurns (who.turnOf .stepwise k) item ++ ts) :
    ∃ tn, Host.Core.run core (itemTurns (who.turnOf .stepwise k) item).length s =
      .next (((s.afterItem who item).bringAt who rest).turnTo tn ts) := by
  cases item with
  | res level =>
    refine ⟨who.turnOf .stepwise k, run_one ?_⟩
    rw [step_bringItem h hgo hsched]
    cases who <;> rfl
  | wait us =>
    refine ⟨.timebase us, (steps_wait rfl (step_bringItem h hgo hsched)).trans ?_⟩
    cases who <;> rfl
  | cmd b =>
    have hturn : (s.turnTo (who.turnOf .stepwise k) (who.turnOf .stepwise k :: ts)).pendingTx who = [] := by
      cases who <;> exact h.1
    obtain ⟨tn, hrun⟩ := steps_cmd hturn rfl (step_bringItem h hgo hsched)
    refine ⟨tn, hrun.trans ?_⟩
    cases who <;> rfl

/-- Step by step a bring-up comes, over its turns and waits, to its end with all its items done. -/
theorem run_bringTurns (items : List BringItem) (h : InBringOp who s) (hgo : BringGoesOn who items s)
    (hsched : s.sched = bringTurns (who.turnOf .stepwise k) items ++ ts) :
    Host.Core.run core (bringTurns (who.turnOf .stepwise k) items).length s =
      .next ((s.overTo who (who.turnOf .stepwise k) ts).broughtThrough who items) := by
  induction items generalizing s with
  | nil => exact run_one ((step_bringItem h hgo hsched).trans (by cases who <;> rfl))
  | cons item rest ih =>
    rw [bringTurns_cons] at hsched ⊢
    obtain ⟨tn, hrun⟩ := run_itemTurns h hgo (hsched.trans (List.append_assoc ..))
    have hrest := ih (inBringOp_bringAt (h.afterItem item) rest tn _)
      (bringGoesOn_bringAt (waitLeft_afterItem hgo.1 who item) rest tn _) rfl
    rw [overTo_bringAt, overTo_afterItem] at hrest
    rw [List.length_append]
    exact run_trans hrun hrest

theorem bringOver_broughtThrough (s : State) (who : Agent) (items : List BringItem) :
    (s.broughtThrough who items).bringOver who = (s.bringOver who).broughtThrough who items :=
  broughtThrough_comm (f := (State.bringOver · who)) (fun v item => by cases item <;> cases who <;> rfl) s items

/-- At once a bring-up goes, in one turn and the time behind it, past its first `wait`: what the items behind it then
lead to is what all items lead to. -/
theorem run_toFirstWait {rest : List BringItem} (h : InBringOp who s) (hup : BringTakesUp who items s)
    (hwait : bringWaitAt items = some (us, rest)) (hsched : s.sched = who.turnOf .atOnce k :: .timebase us :: ts) :
    ∃ v, Host.Core.run core 2 s = .next ((v.bringAt who rest).turnTo (.timebase us) ts) ∧ InBringOp who v ∧
      v.waitLeft = 0 ∧ ∀ tn ts', (v.overTo who tn ts').broughtThrough who rest =
        (s.overTo who tn ts').broughtThrough who items := by
  have hstep := step_bringUp h hup hsched
  rw [bringUp_of_wait _ _ hwait] at hstep
  refine ⟨_, steps_wait (broughtThrough_sched ..) hstep,
    ((h.turnTo (who.turnOf .atOnce k) (.timebase us :: ts)).broughtThrough (bringHead items)).afterItem (.wait us),
    Nat.sub_self us, fun tn ts' => ?_⟩
  rw [broughtThrough_of_wait _ _ hwait, overTo_afterItem, overTo_broughtThrough]
  cases who <;> rfl

/-- At once a bring-up comes, over its turns and waits, to its end with all its items done. -/
theorem run_onceTurns (items : List BringItem) (h : InBringOp who s) (hup : BringTakesUp who items s)
    (hsched : s.sched = onceTurns (who.turnOf .atOnce k) items ++ ts) :
    Host.Core.run core (onceTurns (who.turnOf .atOnce k) items).length s =
      .next ((s.overTo who (who.turnOf .atOnce k) ts).broughtThrough who items) := by
  induction items using waits_induction generalizing s with
  | done items hnone =>
    rw [onceTurns_of_no_wait _ hnone] at hsched ⊢
    have hstep := step_bringUp h hup hsched
    rw [bringUp_of_no_wait _ _ hnone] at hstep
    refine run_one (hstep.trans (congrArg Host.Outcome.next ?_))
    refine (bringOver_broughtThrough (s.turnTo (who.turnOf .atOnce k) ts) who items).trans ?_
    cases who <;> rfl
  | wait items us rest hwait ih =>
    rw [onceTurns_of_wait _ hwait] at hsched ⊢
    obtain ⟨v, hrun, hin, hzero, hover⟩ := run_toFirstWait h hup hwait hsched
    have hrest := ih (inBringOp_bringAt hin rest (.timebase us) _)
      (.inr (bringGoesOn_bringAt hzero rest (.timebase us) _)) rfl
    rw [overTo_bringAt, hover] at hrest
    rw [List.length_cons, List.length_cons, Nat.add_assoc, Nat.add_comm]
    exact run_trans hrun hrest

/-! ### Bring-ups at both grains -/

/-- Step by step a bring-up comes, from its beginning over its turns and waits, to its end with all its items done. -/
theorem run_wholeBringup (h : InBringOp who s) (hb : BringBegins who s) (hwait : s.waitLeft = 0)
    (hsched : s.sched = who.turnOf .stepwise k :: bringTurns (who.turnOf .stepwise k) s.cfg.bringupSeq ++ ts) :
    Host.Core.run core (who.turnOf .stepwise k :: bringTurns (who.turnOf .stepwise k) s.cfg.bringupSeq).length s =
      .next ((s.overTo who (who.turnOf .stepwise k) ts).broughtThrough who s.cfg.bringupSeq) := by
  have hstep : step s = .next ((s.bringAt who s.cfg.bringupSeq).turnTo (who.turnOf .stepwise k)
      (bringTurns (who.turnOf .stepwise k) s.cfg.bringupSeq ++ ts)) := by
    rw [step_inBringOp h hsched, exec_bringOp_begins (by cases who <;> exact hb)]
    cases who <;> rfl
  have hrest := run_bringTurns s.cfg.bringupSeq (inBringOp_bringAt h ..) (bringGoesOn_bringAt hwait ..)
    (s := (s.bringAt who s.cfg.bringupSeq).turnTo (who.turnOf .stepwise k)
      (bringTurns (who.turnOf .stepwise k) s.cfg.bringupSeq ++ ts)) rfl
  rw [overTo_bringAt] at hrest
  exact (run_succ (M := core) hstep).trans hrest

/-- The end of a bring-up is the same but for the turn recorded, whichever turn that is. -/
theorem broughtThrough_eqUpToTurn (s : State) (who : Agent) (items : List BringItem) (tn tn' : Turn) (ts : List Turn) :
    EqUpToTurn ((s.overTo who tn' ts).broughtThrough who items) ((s.overTo who tn ts).broughtThrough who items) := by
  have hturn (t : Turn) : (s.overTo who t ts).broughtThrough who items =
      { (s.overTo who tn ts).broughtThrough who items with turn := t } :=
    (broughtThrough_comm (f := fun v => { v with turn := t }) (fun v item => by cases item <;> rfl)
      (s.overTo who tn ts) items).symm
  rw [EqUpToTurn, hturn tn']

/-- The bring-up of `who`, from its beginning, comes to one state step by step and at once, with the same waits
between. -/
theorem bringUp_turnsAgree (h : InBringOp who s) (hb : BringBegins who s) (hwait : s.waitLeft = 0) (k k' : Nat) :
    TurnsAgree s (who.turnOf .stepwise k :: bringTurns (who.turnOf .stepwise k) s.cfg.bringupSeq)
      (onceTurns (who.turnOf .atOnce k') s.cfg.bringupSeq) := by
  intro ts
  have hbegins (ts' : List Turn) : BringBegins who (s.turnTo s.turn ts') := by cases who <;> exact hb
  refine ⟨(s.overTo who (who.turnOf .stepwise k) ts).broughtThrough who s.cfg.bringupSeq,
    (s.overTo who (who.turnOf .atOnce k') ts).broughtThrough who s.cfg.bringupSeq, ?_, ?_,
    broughtThrough_eqUpToTurn ..⟩
  · refine (run_wholeBringup (k := k) (ts := ts) (h.turnTo s.turn _) (hbegins (_ :: _ ++ ts)) hwait rfl).trans ?_
    cases who <;> rfl
  · refine (run_onceTurns (k := k') (ts := ts) s.cfg.bringupSeq (h.turnTo s.turn (_ ++ ts)) (.inl ⟨hbegins _, rfl⟩)
      rfl).trans ?_
    cases who <;> rfl

end Bring

/-! ### TEARDOWN's restore (R148, R196) -/

section Restore
variable {s : State} {g : Grain} {k : Nat} {ts : List Turn}

/-- A scheduled turn of HOST in TEARDOWN, with no frame pending, runs TEARDOWN. -/
theorem step_teardown (hop : s.hop = some .teardown) (hfs : s.hostTx = []) (hsched : s.sched = .host g k :: ts) :
    step s = exec .teardown (s.turnTo (.host g k) ts) := by
  obtain ⟨_, hhost, _⟩ := turnRunsItsOperation
  exact hhost s g k ts .teardown hsched hfs hop

theorem execTeardown_restore_stepwise (here : s.hph = .restore) (hgrain : turnGrain s.turn = .stepwise) :
    exec .teardown s = .next ((s.enqueue .host (framesOf false s.cfg.restoreSeq)).hostAt .finish) := by
  simp only [exec, execTeardown, here, hgrain]

theorem execTeardown_finish (here : s.hph = .finish) : exec .teardown s = .next (s.respond .done) := by
  simp only [exec, execTeardown, here]

/-- A burst leaves HPH, and does not look at it. -/
theorem sendBurst_hostAt (s : State) (q : HostPhase) (dc : Bool) (bytes : List Byte) (who : Agent) :
    (s.hostAt q).sendBurst dc bytes who = (s.sendBurst dc bytes who).hostAt q := by
  unfold State.sendBurst
  cases bytes.getLast? <;> rfl

/-- Step by step the restore begins by handing RESTORE_SEQ to the bus. -/
theorem step_restore (hop : s.hop = some .teardown) (here : s.hph = .restore) (hfs : s.hostTx = [])
    (hsched : s.sched = .host .stepwise k :: ts) :
    step s = .next (((s.hostAt .finish).withTx .host (framesOf false s.cfg.restoreSeq)).turnTo
      (.host .stepwise k) ts) := by
  have hexec := execTeardown_restore_stepwise (s := s.turnTo (.host .stepwise k) ts) here rfl
  have hpend : (s.turnTo (.host .stepwise k) ts).pendingTx .host = [] := hfs
  rw [enqueue_of_pendingTx hpend] at hexec
  exact (step_teardown hop hfs hsched).trans hexec

/-- Step by step TEARDOWN hands RESTORE_SEQ over, shifts it out frame by frame, and responds. -/
theorem run_restore (hop : s.hop = some .teardown) (here : s.hph = .restore) (hfs : s.hostTx = [])
    (hsched : s.sched = .host .stepwise k ::
      (List.replicate s.cfg.restoreSeq.length (.host .stepwise k) ++ .host .stepwise k :: ts)) :
    Host.Core.run core (s.cfg.restoreSeq.length + 1 + 1) s =
      .next (((s.txc s.cfg.restoreSeq .host).turnTo (.host .stepwise k) ts).respond .done) := by
  have hstep := step_restore hop here hfs hsched
  obtain ⟨tn, hburst⟩ := run_burst (s := s.hostAt .finish) (who := .host) (g := .stepwise) (k := k)
    (ts := .host .stepwise k :: ts) (dc := false) hfs s.cfg.restoreSeq (.host .stepwise k)
  rw [sendBurst_hostAt] at hburst
  have hlast := step_teardown
    (s := ((s.txc s.cfg.restoreSeq .host).hostAt .finish).turnTo tn (.host .stepwise k :: ts))
    ((sendBurst_hop ..).trans hop) ((sendBurst_hostTx ..).trans hfs) rfl
  exact (run_succ (M := core) hstep).trans (run_trans (M := core) hburst
    (run_one (hlast.trans (execTeardown_finish rfl))))

/-- TEARDOWN's restore comes to one state step by step and at once. -/
theorem restore_turnsComeTo (hop : s.hop = some .teardown) (here : s.hph = .restore) (hfs : s.hostTx = []) (k : Nat) :
    TurnsComeTo s (List.replicate (s.cfg.restoreSeq.length + 2) (.host .stepwise k)) .teardown (.host .atOnce k) := by
  intro ts
  have hsched : List.replicate (s.cfg.restoreSeq.length + 2) (Turn.host .stepwise k) ++ ts = .host .stepwise k ::
      (List.replicate s.cfg.restoreSeq.length (.host .stepwise k) ++ .host .stepwise k :: ts) := by
    rw [List.replicate_succ, List.replicate_succ', List.cons_append, List.append_assoc]
    rfl
  have hrun := run_restore (s := s.turnTo s.turn (_ ++ ts)) (k := k) (ts := ts) hop here hfs hsched
  have honce : exec .teardown (s.turnTo (.host .atOnce k) ts) =
      .next (((s.turnTo (.host .atOnce k) ts).txc s.cfg.restoreSeq .host).respond .done) :=
    execTeardown_restore here rfl
  rw [State.txc, sendBurst_turnTo] at hrun honce
  exact ⟨_, _, (congrArg (Host.Core.run core · _) List.length_replicate).trans hrun, honce, rfl⟩

end Restore

/-- Settles O30: the bring-up of each agent, and the restore. -/
theorem bringupAndRestoreStepByStepEqualAtOnce : Obligations.BringupAndRestoreStepByStepEqualAtOnce :=
  ⟨fun _ k k' hop here hfs hwait hstrap hrun =>
      bringUp_turnsAgree (who := .host) ⟨hfs, hop⟩ ⟨here, hstrap, hrun⟩ hwait k k',
    fun _ k k' hph here hfs hwait => bringUp_turnsAgree (who := .pump) ⟨hfs, hph⟩ here hwait k k',
    fun _ k hop here hfs => restore_turnsComeTo hop here hfs k⟩

end Sys2Proof.Machine
end

section
/-! START brings up and releases the pump: one at-once turn, and the whole operation over its turns (R141, R194). -/

namespace Sys2Proof.Machine

section Start
variable {s : State} {items : List BringItem}

/-- A whole bring-up puts its items on the bus and takes their time; it changes no place, no response and no run state
(R194). -/
theorem broughtThrough_effect (s : State) (who : Agent) (items : List BringItem) :
    let t := s.broughtThrough who items
    Brought who items s t ∧ BringFrame s t ∧ SamePlace s t ∧ SamePort s t ∧ t.runState = s.runState ∧
      t.now = s.now + bringWaits items ∧ t.waitLeft = (if (bringWaitAt items).isNone then s.waitLeft else 0) ∧
      t.turn = s.turn ∧ t.sched = s.sched := by
  obtain ⟨sdo, sck, dc, cs, hlines, e⟩ := broughtThrough_frame s who items
  intro t
  have hbus : t.busLog = s.busLog ++ bringEvents who items ∧ t.res = bringRes s.res items ∧ t.hostTx = s.hostTx ∧
      t.pumpTx = s.pumpTx := by simp [t, e]
  obtain ⟨hlog, hres, hhost, hpump⟩ := hbus
  refine ⟨⟨hlog, hlines, hres, hhost, hpump⟩, ?_⟩
  simp [t, e, BringFrame, SameLogical, SameDerived, SameRegisters, SameStamps, SamePlace, SamePort]

/-- START in one at-once turn with no `wait` left: the items are done and the pump is released. -/
theorem execStart_done (h : BringTakesUp .host items s) (hg : turnGrain s.turn = .atOnce)
    (hnone : bringWaitAt items = none) : exec .start s = .next (s.broughtThrough .host items).release := by
  have hexec := exec_bringOp_atOnce h hg
  rwa [bringUp_of_no_wait s .host hnone] at hexec

/-- START in one at-once turn with a `wait` left: the items before it are done and it is under way. -/
theorem execStart_waits {us : Nat} {rest : List BringItem} (h : BringTakesUp .host items s)
    (hg : turnGrain s.turn = .atOnce) (hwait : bringWaitAt items = some (us, rest)) :
    exec .start s = .next (((s.broughtThrough .host (bringHead items)).beginWait us).hostAt (.bring rest)) := by
  have hexec := exec_bringOp_atOnce h hg
  rwa [bringUp_of_wait s .host hwait] at hexec

/-- One at-once turn of START, at its beginning or with a `wait` over: the items up to the next `wait` are done, and
then it waits or releases the pump. -/
theorem start_turn (h : BringTakesUp .host items s) (hg : turnGrain s.turn = .atOnce) :
    ∃ t, exec .start s = .next t ∧ Brought .host (bringHead items) s t ∧
      (bringWaitAt items = none → t.runState = .running ∧ Responded s t .done ∧ t.waitLeft = s.waitLeft) ∧
      (∀ us rest, bringWaitAt items = some (us, rest) →
        t.runState = s.runState ∧ t.hop = s.hop ∧ t.hph = .bring rest ∧ t.responses = s.responses ∧ t.waitLeft = us) ∧
      BringFrame s t ∧ SamePlace s t ∧ t.now = s.now ∧ t.turn = s.turn ∧ t.sched = s.sched := by
  obtain ⟨hbrought, hframe, hplace, ⟨hhop, _, hresp⟩, hrun, hnow, hleft, hturn, hsched⟩ :=
    broughtThrough_effect s .host (bringHead items)
  have hhead := bringWaitAt_bringHead items
  rw [bringWaits_of_no_wait hhead] at hnow
  simp only [hhead, Option.isNone_none, if_true] at hleft
  cases hw : bringWaitAt items with
  | none =>
    have hexec := execStart_done h hg hw
    have hitems : s.broughtThrough .host items = s.broughtThrough .host (bringHead items) := by
      rw [bringHead_of_no_wait hw]
    rw [hitems] at hexec
    exact ⟨_, hexec, hbrought, fun _ => ⟨rfl, ⟨rfl, rfl, congrArg (· ++ _) hresp⟩, hleft⟩, nofun, hframe, hplace, hnow,
      hturn, hsched⟩
  | some w =>
    obtain ⟨us, rest⟩ := w
    refine ⟨_, execStart_waits h hg hw, hbrought, nofun, fun us' rest' heq => ?_, hframe, hplace, hnow, hturn, hsched⟩
    cases heq
    exact ⟨hrun, hhop, rfl, hresp, rfl⟩

/-- Settles O31: one turn does the items up to the next `wait`; the turns together do them all, and then release. -/
theorem startBringsUpAndReleases : Obligations.StartBringsUpAndReleases := by
  refine ⟨fun s items hg hcase => start_turn ?_ hg, fun s k ts hop here hfs hstrap hrun hsched => ?_⟩
  · rcases hcase with ⟨here, hstrap, hrun, hitems⟩ | ⟨here, hzero⟩
    · exact .inl ⟨⟨here, hstrap, hrun⟩, hitems⟩
    · exact .inr ⟨hzero, here⟩
  · have hwhole := run_onceTurns (who := .host) s.cfg.bringupSeq ⟨hfs, hop⟩ (.inl ⟨⟨here, hstrap, hrun⟩, rfl⟩) hsched
    obtain ⟨hbrought, hframe, hplace, ⟨hhop, hhph, hresp⟩, hrun, hnow, hleft, _, hsched⟩ :=
      broughtThrough_effect (s.overTo .host (.host .atOnce k) ts) .host s.cfg.bringupSeq
    refine ⟨_, hwhole, hbrought, hrun, ⟨hhop, hhph, hresp⟩, hnow, fun hzero => ?_, hframe, hplace, hsched⟩
    have hzero' : (s.overTo .host (.host .atOnce k) ts).waitLeft = 0 := hzero
    rw [hzero', ite_self] at hleft
    exact hleft

end Start
end Sys2Proof.Machine
end

section
/-! PH and SF go only as the listing of the fixed micro-program has it (R160, R104, R112). -/

namespace Sys2Proof.Machine

section Program
variable {s t u : State} {i : Instr} {p : BitVec 4}

/-! ### The listing -/

/-- The phases the listing goes on from to the next code, with SF kept and no condition (R160). -/
def PlainPhase (p : BitVec 4) : Prop :=
  p = Ph.park ∨ p = Ph.txplane ∨ p = Ph.cadj1 ∨ p = Ph.resume ∨ p = Ph.cadj2 ∨ p = Ph.maint ∨ p = Ph.blank ∨
    p = Ph.txfinal ∨ p = Ph.setstop

theorem followsProgram_of_plain (hp : PlainPhase s.ph) (ht : t.ph = s.ph + 1#4) (hsf : t.sf = s.sf) :
    FollowsProgram s t := by
  rcases hp with hp | hp | hp | hp | hp | hp | hp | hp | hp <;> rw [hp] at ht <;>
    simp [FollowsProgram, hp, ht, hsf]

theorem followsProgram_idle_iff (hp : s.ph = Ph.idle) :
    FollowsProgram s t ↔ s.runState ≠ .waiting ∧ t.ph = 2#4 ∧ t.sf = 0 := by
  simp [FollowsProgram, hp]

theorem followsProgram_bringup_iff (hp : s.ph = Ph.bringup) : FollowsProgram s t ↔ t.ph = 2#4 ∧ t.sf = 0 := by
  simp [FollowsProgram, hp]

theorem followsProgram_waitpre_iff (hp : s.ph = Ph.waitpre) :
    FollowsProgram s t ↔ s.ts1 + s.cfg.tPreUs ≤ s.now ∧ t.ph = 4#4 ∧ t.sf = s.sf := by
  simp [FollowsProgram, hp]

theorem followsProgram_waitsub_iff (hp : s.ph = Ph.waitsub) :
    FollowsProgram s t ↔ s.ts3 + s.cfg.tSubUs ≤ s.now ∧ t.ph = 10#4 ∧ t.sf = s.sf := by
  simp [FollowsProgram, hp]

theorem followsProgram_next_iff (hp : s.ph = Ph.next) : FollowsProgram s t ↔
    if s.sf = 2 then t.ph = (if s.runState = .stopping then 11#4 else 2#4) ∧ t.sf = 0
    else t.ph = 2#4 ∧ t.sf = s.sf + 1 := by
  simp [FollowsProgram, hp]

@[simp] theorem followsProgram_takeTurn (s t : State) : FollowsProgram s.takeTurn t ↔ FollowsProgram s t := by
  simp [FollowsProgram]

/-! ### What a turn does to PH and SF -/

/-- PH and SF stay, or go by the listing. -/
def KeepsProgram (s t : State) : Prop := (t.ph = s.ph ∧ t.sf = s.sf) ∨ FollowsProgram s t

/-- The successor of a sending micro-operation is the next code (R163, R165 to R168, R173). -/
theorem PumpSends.successor (h : PumpSends s i u p) (hph : encode i = .phase s.ph) :
    PlainPhase s.ph ∧ p = s.ph + 1#4 ∧ u.ph = s.ph ∧ u.sf = s.sf := by
  cases h <;>
    · have hp := (Code.phase.inj hph).symm
      exact ⟨by simp [PlainPhase, hp], by rw [hp]; rfl, rfl, rfl⟩

/-- MAINT stays at its place or goes to WAITSUB, with SF kept (R169). -/
theorem MaintMove.place_or_waitsub (h : MaintMove s t) : (t.ph = s.ph ∨ t.ph = Ph.waitsub) ∧ t.sf = s.sf := by
  cases h with
  | composePuts => exact ⟨.inl (by simp), by simp⟩
  | composes | composeReads | composed | looksAtCreq | takesCreq | recomputes | looksAtCmd | takesCmd =>
    exact ⟨.inl rfl, rfl⟩
  | cmdAtOnce => exact ⟨.inr rfl, by simp [State.txc]⟩
  | _ => exact ⟨.inr rfl, rfl⟩

/-- A micro-operation stays at its phase, or goes to a successor the listing names (R160). -/
theorem PumpMove.keepsProgram (h : PumpMove s i t) (hph : encode i = .phase s.ph) : KeepsProgram s t := by
  cases h with
  | stays | bringBegins => exact .inl ⟨rfl, rfl⟩
  | idles => exact .inl ⟨Code.phase.inj hph, rfl⟩
  | enters hrun => exact .inr ((followsProgram_idle_iff (Code.phase.inj hph).symm).2 ⟨hrun, rfl, rfl⟩)
  | brings h => exact .inl ⟨h.place.1, h.place.2.1⟩
  | bringEnds => exact .inr ((followsProgram_bringup_iff (Code.phase.inj hph).symm).2 ⟨rfl, rfl⟩)
  | sendsAtOnce h =>
    obtain ⟨hplain, hp, _, hsf⟩ := h.successor hph
    exact .inr (followsProgram_of_plain hplain hp (by simpa [State.txc, State.txd] using hsf))
  | sends h =>
    obtain ⟨_, _, hu, hsf⟩ := h.successor hph
    exact .inl ⟨hu, hsf⟩
  | sent h =>
    obtain ⟨hplain, hp, _, _⟩ := h.successor hph
    exact .inr (followsProgram_of_plain hplain hp rfl)
  | preOver hdue => exact .inr ((followsProgram_waitpre_iff (Code.phase.inj hph).symm).2 ⟨hdue, rfl, rfl⟩)
  | subOver hdue => exact .inr ((followsProgram_waitsub_iff (Code.phase.inj hph).symm).2 ⟨hdue, rfl, rfl⟩)
  | maint h =>
    have hp : s.ph = Ph.maint := (Code.phase.inj hph).symm
    obtain ⟨hstay | hgo, hsf⟩ := h.place_or_waitsub
    · exact .inl ⟨hstay, hsf⟩
    · exact .inr (followsProgram_of_plain (by simp [PlainPhase, hp]) (by rw [hgo, hp]; rfl) hsf)
  | nextSubframe hsf =>
    rw [KeepsProgram, followsProgram_next_iff (Code.phase.inj hph).symm, if_neg hsf]
    exact .inr ⟨rfl, rfl⟩
  | nextCycle hsf =>
    rw [KeepsProgram, followsProgram_next_iff (Code.phase.inj hph).symm, if_pos hsf]
    exact .inr ⟨rfl, rfl⟩
  | blanks | halts =>
    have hp := (Code.phase.inj hph).symm
    exact .inr (followsProgram_of_plain (by simp [PlainPhase, hp]) (by rw [hp]; rfl) rfl)

/-- Any turn keeps PH and SF, or is PUMP's and goes by the listing. -/
theorem TurnMove.keepsProgram (h : TurnMove s t) (hI : Inv s) :
    (t.ph = s.ph ∧ t.sf = s.sf) ∨ (FollowsProgram s t ∧ ∃ g k, s.turn = .pump g k) := by
  cases hturn : s.turn with
  | host g k =>
    obtain ⟨_, _, _, ⟨hph, hsf, _⟩, _⟩ := (h.host_rights hI hturn).1
    exact .inl ⟨hph, hsf⟩
  | pump g k =>
    rcases h.pump hturn with ⟨f, rest, _, rfl⟩ | ⟨i, _, hph, hm⟩
    · exact .inl ⟨rfl, rfl⟩
    · exact (hm.keepsProgram hph).imp_right fun hf => ⟨hf, g, k, rfl⟩
  | timebase us =>
    rw [h.timebase_eq hturn]
    exact .inl ⟨rfl, rfl⟩

/-- Settles O56: HOST and TIMEBASE leave PH and SF, and each move of the pump stays or goes by the listing. -/
theorem phaseFollowsTheMicroProgram : Obligations.PhaseFollowsTheMicroProgram := by
  intro s t hI h
  have hm := step_moves h
  simpa [hm.turn_eq] using hm.keepsProgram hI.takeTurn

end Program
end Sys2Proof.Machine
end

section
/-! The micro-operations one at-once turn at a time: IDLE, the sends, NEXT and the stop sequence (R161 to R175). -/

namespace Sys2Proof.Machine

section Sends
variable {s t : State} {p : BitVec 4} {bytes : List Byte}

/-! ### IDLE and NEXT -/

/-- Settles O37: the two branches of IDLE. -/
theorem idleWaitsForRelease : Obligations.IdleWaitsForRelease :=
  ⟨fun _ hrun => congrArg Host.Outcome.next (if_pos hrun), fun _ hrun => congrArg Host.Outcome.next (if_neg hrun)⟩

/-- Settles O43: NEXT counts SF modulo 3, and goes to BLANK only where both its tests hold. -/
theorem nextAdvancesOrStops : Obligations.NextAdvancesOrStops := by
  refine ⟨fun s hlt => ?_, fun s hsf hrun => ?_, fun s hsf hrun => ?_⟩
  · have hsf : s.sf ≠ 2 := fun h => by simp [h] at hlt
    refine ⟨_, execNext_eq s, ?_, ?_⟩
    · simp only [goto_sf, Fin.val_add]
      exact Nat.mod_eq_of_lt (Nat.succ_lt_succ hlt)
    · rw [if_neg fun hstop => hsf hstop.1]
      rfl
  · rw [execNext_eq, if_pos ⟨hsf, hrun⟩, hsf]
    rfl
  · rw [execNext_eq, if_neg fun hstop => hrun hstop.2, hsf]
    rfl

/-! ### Command bursts -/

/-- A burst of the pump and the step to its successor change the lines, the log and the place (R191). -/
theorem pumpFrame_burst_goto (s : State) (dc : Bool) (bytes : List Byte) (p : BitVec 4) :
    PumpFrame s ((s.sendBurst dc bytes .pump).goto p) := by
  simp [PumpFrame, SameLogical, SameDerived, SameCells, SameRegisters, SamePort, SameAround]

/-- What a micro-operation that sends command bytes at once leaves behind (R166 to R168, R191). -/
theorem txc_goto_effect (s : State) (bytes : List Byte) (p : BitVec 4) :
    let t := (s.txc bytes .pump).goto p
    t.busLog = s.busLog ++ burstEvents false bytes .pump ∧ LinesAfter s t false bytes ∧ PumpAt t p ∧ t.sf = s.sf ∧
      SameStamps s t ∧ PumpFrame s t :=
  ⟨sendBurst_busLog .., linesAfter_sendBurst s false bytes .pump, ⟨rfl, rfl⟩, sendBurst_sf ..,
    ⟨sendBurst_ts1 .., sendBurst_ts3 ..⟩, pumpFrame_burst_goto ..⟩

/-- Settles O39: TS1 is taken, and then PARK sends as any command burst. -/
theorem parkStampsAndSends : Obligations.ParkStampsAndSends := by
  intro s h
  obtain ⟨hlog, hlines, hplace, hsf, ⟨hts1, hts3⟩, hframe⟩ :=
    txc_goto_effect { s with ts1 := s.now } s.cfg.parkSeq Ph.waitpre
  exact ⟨_, execPark_atOnce h, hts1, hts3, hlog, hlines, hplace, hsf, hframe⟩

/-- Settles O42: three micro-operations that only send. -/
theorem weightsAndResumeSend : Obligations.WeightsAndResumeSend := fun s h =>
  ⟨⟨_, sendThenGoto_atOnce h _, txc_goto_effect s (pairBytes s.cadj s.sf) Ph.resume⟩,
    ⟨_, sendThenGoto_atOnce h _, txc_goto_effect s s.cfg.resumeSeq Ph.cadj2⟩,
    ⟨_, sendThenGoto_atOnce h _, txc_goto_effect s (pairBytes s.cadj s.sf) Ph.maint⟩⟩

/-! ### Planes -/

/-- A plane's last byte is the one at index 359 (R65). -/
theorem Memory.bytes_getLast? (m : Memory) : m.bytes.getLast? = some (m.byteAt 359) := by
  rw [List.getLast?_eq_getElem?, Memory.bytes_length]
  exact m.bytes_getElem? (by decide)

/-- The state after TXPLANE_PREFIX and a plane are sent at once. -/
def State.sentPlane (s : State) (m : Memory) (p : BitVec 4) : State :=
  ((s.txc s.cfg.txplanePrefix .pump).txd m.bytes .pump).goto p

/-- What a micro-operation that sends a plane at once leaves behind (R165, R173, R192). -/
theorem sentPlane_effect (s : State) (m : Memory) (p : BitVec 4) :
    let t := s.sentPlane m p
    t.busLog = s.busLog ++ burstEvents false s.cfg.txplanePrefix .pump
        ++ (List.range 360).map (fun i => .byte true (m.byteAt i) .pump) ∧
      t.dc = true ∧ t.cs = (!s.cfg.csActive) ∧ t.sck = sckRest s.cfg ∧ t.sdo = lastBitSent s.cfg (m.byteAt 359) ∧
      PumpAt t p ∧ t.sf = s.sf ∧ SameStamps s t ∧ PumpFrame s t := by
  intro t
  have hlines : LinesAfter (s.txc s.cfg.txplanePrefix .pump) t true m.bytes :=
    linesAfter_sendBurst (s.txc s.cfg.txplanePrefix .pump) true m.bytes .pump
  simp only [LinesAfter, Memory.bytes_getLast?, State.txc, sendBurst_cfg] at hlines
  obtain ⟨hdc, hcs, hsck, hsdo⟩ := hlines
  refine ⟨?_, hdc, hcs, hsck, hsdo, ⟨rfl, rfl⟩, ?_⟩
  · simp [t, State.sentPlane, State.txc, State.txd, burstEvents, Memory.bytes]
  · simp [t, State.sentPlane, State.txc, State.txd, SameStamps, PumpFrame, SameLogical, SameDerived, SameCells,
      SameRegisters, SamePort, SameAround]

/-- Settles O41: TS3 is taken, and then TXPLANE_PREFIX and the plane of the subframe are sent. -/
theorem txplaneSendsThePlane : Obligations.TxplaneSendsThePlane := by
  intro s h hs
  obtain ⟨hlog, hdc, hcs, hsck, hsdo, hplace, hsf, ⟨hts1, hts3⟩, hframe⟩ :=
    sentPlane_effect { s with ts3 := s.now } (s.derived s.sf) Ph.cadj1
  exact ⟨_, execTxplane_atOnce h hs, hts3, hts1, hlog, hdc, hcs, hsck, hsdo, hplace, hsf, hframe⟩

/-! ### The stop sequence -/

theorem execTxfinal_atOnce (h : AtStart s) (hs : s.planesOk = true) :
    exec .txfinal s = .next (s.sentPlane s.dp0 Ph.setstop) := by
  obtain ⟨here, hg⟩ := h
  simp only [exec, execTxfinal, here, State.sendPlane, hg, if_pos hs]
  rfl

/-- Settles O44, operation by operation. -/
theorem stopSequenceOperations : Obligations.StopSequenceOperations := by
  refine ⟨fun s => ?_, fun s h hs => ⟨_, execTxfinal_atOnce h hs, sentPlane_effect s s.dp0 Ph.setstop⟩, fun _ => rfl,
    fun _ => rfl⟩
  refine ⟨_, rfl, fun i hi => Memory.read_ofFn (fun _ => 0x00#8) hi, rfl, rfl, ⟨rfl, rfl⟩, rfl, ?_⟩
  simp [SameLogical, SameCells, SameRegisters, SameStamps, SameBus, SamePort, SameAround]

end Sends
end Sys2Proof.Machine
end

section
/-! The checkpoint's other services: the contrast request, the command queue, or none, and at most one of them (R169,
R212, R226). -/

namespace Sys2Proof.Machine

section Serve
variable {s t : State} {lvl : Byte} {c : Cadj}

/-! ### MAINT at once -/

theorem execMaint_serves (h : AtStart s) (hsf : s.sf = 2) : exec .maint s = s.serveOne := by
  simp only [exec, execMaint, h.1, h.2, if_pos hsf]

theorem serveOne_contrast (hfree : s.copyPending = false) (hreq : s.creq = some lvl)
    (hc : contrastAt s.cfg lvl = some c) : s.serveOne = .next ((s.recomputed c).clearCreq.goto Ph.waitsub) := by
  simp [State.serveOne, hfree, hreq, hc]

theorem serveOne_queue (hfree : s.copyPending = false) (hnone : s.creq = none) (hreq : s.pendingCmd = true) :
    s.serveOne = .next ((s.txc s.queuedBytes .pump).clearCmd.goto Ph.waitsub) := by
  simp [State.serveOne, hfree, hnone, hreq]

theorem serveOne_nothing (hfree : s.copyPending = false) (hnone : s.creq = none) (hcmd : s.pendingCmd = false) :
    s.serveOne = .next (s.goto Ph.waitsub) := by
  simp [State.serveOne, hfree, hnone, hcmd]

/-- Under ConfigOK CONTRAST_MAP has an entry for every level (R213, R221). -/
theorem contrastAt_of_ok {c : Cfg} (hc : c.ok = true) (lvl : Byte) : ∃ a, contrastAt c lvl = some a := by
  simp only [Cfg.ok, Bool.and_eq_true, decide_eq_true_eq] at hc
  have hlen : c.contrastMap.length = 256 := hc.2
  have hlt : lvl.toNat < c.contrastMap.length := hlen ▸ lvl.isLt
  exact ⟨_, List.getElem?_eq_getElem hlt⟩

/-- Settles O19: the entry for the level exists, and the turn writes CADJ, CREQ and the place. -/
theorem maintRecomputesContrast : Obligations.MaintRecomputesContrast := by
  intro s lvl h hsf hok hfree hreq
  obtain ⟨c, hc⟩ := contrastAt_of_ok hok lvl
  refine ⟨_, c, (execMaint_serves h hsf).trans (serveOne_contrast hfree hreq hc), hc, rfl, rfl, ?_⟩
  simp [PumpAt, Ph.waitsub, SameLogical, SameDerived, SameStamps, SameBus, SamePort, SameAround]

theorem goto_of_start (h : s.pph = .start) (p : BitVec 4) : s.goto p = { s with ph := p } := by
  rw [State.goto, ← h]

/-- Settles O20: outside subframe 2, with nothing requested, and with a queue. -/
theorem maintSendsQueueOrNothing : Obligations.MaintSendsQueueOrNothing := by
  refine ⟨fun s here hsf => ?_, fun s h hsf hfree hnone hcmd => ?_, fun s h hsf hfree hnone hreq => ?_⟩
  · rw [execMaint_passes here hsf, goto_of_start here]
  · rw [execMaint_serves h hsf, serveOne_nothing hfree hnone hcmd, goto_of_start h.1]
  · refine ⟨_, (execMaint_serves h hsf).trans (serveOne_queue hfree hnone hreq), sendBurst_busLog ..,
      linesAfter_sendBurst s false s.queuedBytes .pump, ?_⟩
    simp [State.txc, PumpAt, Ph.waitsub, SameLogical, SameDerived, SameRegisters, SameStamps, SamePort, SameAround]

/-! ### At most one service (R226) -/

/-- What a turn of MAINT does to the three requests. -/
inductive Served (s t : State) : Prop
  | none (hcopy : t.copyPending = s.copyPending) (hcreq : t.creq = s.creq) (hcmd : t.pendingCmd = s.pendingCmd)
  | copy (hcopy : t.copyPending = false) (hcreq : t.creq = s.creq) (hcmd : t.pendingCmd = s.pendingCmd)
      (hgo : PumpAt t 9#4)
  | creq (hcopy : t.copyPending = s.copyPending) (hcreq : t.creq = .none) (hcmd : t.pendingCmd = s.pendingCmd)
      (hgo : PumpAt t 9#4)
  | cmd (hcopy : t.copyPending = s.copyPending) (hcreq : t.creq = s.creq) (hcmd : t.pendingCmd = false)
      (hgo : PumpAt t 9#4)

theorem MaintMove.serves (h : MaintMove s t) : Served s t := by
  cases h with
  | copyAtOnce | copyServed => exact .copy rfl rfl rfl ⟨rfl, rfl⟩
  | creqAtOnce | creqServed => exact .creq rfl rfl rfl ⟨rfl, rfl⟩
  | cmdAtOnce => exact .cmd (sendBurst_copyPending ..) (sendBurst_creq ..) rfl ⟨rfl, rfl⟩
  | cmdServed => exact .cmd rfl rfl rfl ⟨rfl, rfl⟩
  | composePuts => exact .none (by simp) (by simp) (by simp)
  | _ => exact .none rfl rfl rfl

/-- Settles O21: each turn of MAINT is one of `Served`'s, and outside subframe 2 MAINT only goes on. -/
theorem atMostOneRequestServed : Obligations.AtMostOneRequestServed := by
  intro s t h
  refine ⟨fun hne => ?_, fun hne => ?_, fun hne => ?_, fun here hsf => ?_⟩
  · cases (execMaint_moves h).serves with
    | none hcopy | creq hcopy | cmd hcopy => exact absurd hcopy hne
    | copy hcopy hcreq hcmd hgo => exact ⟨hcreq, hcmd, hcopy, hgo⟩
  · cases (execMaint_moves h).serves with
    | none _ hcreq | copy _ hcreq | cmd _ hcreq => exact absurd hcreq hne
    | creq hcopy hcreq hcmd hgo => exact ⟨hcopy, hcmd, hcreq, hgo⟩
  · cases (execMaint_moves h).serves with
    | none _ _ hcmd | copy _ _ hcmd | creq _ _ hcmd => exact absurd hcmd hne
    | cmd hcopy hcreq hcmd hgo => exact ⟨hcopy, hcreq, hcmd, hgo⟩
  · rw [execMaint_passes here hsf] at h
    cases h
    exact ⟨rfl, rfl, rfl⟩

end Serve
end Sys2Proof.Machine
end

section
/-! The waits: WAITPRE and WAITSUB by their deadlines, and the `wait` items of a bring-up by the time left (R164, R170,
R194; log 26). -/

namespace Sys2Proof.Machine

section Waits
variable {s t v : State} {i : Instr} {who : Agent} {us : Nat} {ts : List Turn}

/-! ### Before a deadline -/

theorem execWaitpre_early (h : s.now < s.ts1 + s.cfg.tPreUs) : exec .waitpre s = .next s :=
  congrArg Host.Outcome.next (if_neg (Nat.not_le.2 h))

theorem execWaitsub_early (h : s.now < s.ts3 + s.cfg.tSubUs) : exec .waitsub s = .next s :=
  congrArg Host.Outcome.next (if_neg (Nat.not_le.2 h))

/-- A `wait` item at the head of those owed begins, at either grain (R194). -/
theorem bringTurn_wait (s : State) (who : Agent) (us : Nat) (rest : List BringItem) :
    s.bringTurn who (.wait us :: rest) = (s.beginWait us, some rest) := by
  unfold State.bringTurn
  split <;> rfl

/-- While time is left START's bring-up does nothing (R194). -/
theorem execStart_waiting {items : List BringItem} (here : s.hph = .bring items) (hleft : s.waitLeft ≠ 0) :
    exec .start s = .next s := by
  simp only [exec, execStart, here, if_neg hleft]

/-- While time is left BRINGUP's bring-up does nothing (R194). -/
theorem execBringup_waiting {items : List BringItem} (here : s.pph = .bring items) (hleft : s.waitLeft ≠ 0) :
    exec .bringup s = .next s := by
  simp only [exec, execBringup, here, if_neg hleft]

theorem exec_bringOp_beginsWait {rest : List BringItem} (h : BringGoesOn who (.wait us :: rest) s) :
    exec who.bringOp s = .next ((s.beginWait us).bringAt who rest) := by
  rw [exec_bringOp_goesOn h, bringTurn_wait]
  rfl

/-! ### Turns of TIMEBASE -/

/-- Turns of TIMEBASE add up, and so does the time they take off a `wait` (R46; log 26). -/
theorem run_timebase (ds : List Nat) (hsched : s.sched = ds.map .timebase ++ ts) :
    ∃ t, Host.Core.run core ds.length s = .next t ∧ t.now = s.now + ds.sum ∧ t.waitLeft = s.waitLeft - ds.sum := by
  induction ds generalizing s with
  | nil => exact ⟨s, rfl, rfl, rfl⟩
  | cons d ds ih =>
    obtain ⟨t, hrun, hnow, hleft⟩ := ih (s := (s.turnTo (.timebase d) (ds.map .timebase ++ ts)).advance d) rfl
    refine ⟨t, (run_succ (M := core) (step_timebase hsched)).trans hrun, ?_, ?_⟩
    · simpa [State.turnTo, State.advance, Nat.add_assoc] using hnow
    · simpa [State.turnTo, State.advance, Nat.sub_sub] using hleft

/-! ### Nothing else shortens a `wait` -/

/-- HOST changes the time left of a `wait` only in START's bring-up (R194). -/
theorem HostMove.waitLeft (h : HostMove s i t) : t.waitLeft = s.waitLeft ∨ (i = .start ∧ StartBrings s) := by
  cases h with
  | asksAndResponds h | asksAndReads h | asksAndPolls h => cases h <;> exact .inl rfl
  | brings _ here | releases _ here => exact .inr ⟨rfl, here⟩
  | _ => exact .inl (by simp [State.txc])

/-- PUMP changes the time left of a `wait` only in BRINGUP's bring-up (R194). -/
theorem PumpMove.waitLeft (h : PumpMove s i t) : t.waitLeft = s.waitLeft ∨ (i = .bringup ∧ BringupBrings s) := by
  cases h with
  | brings _ here | bringEnds _ here => exact .inr ⟨rfl, here⟩
  | sendsAtOnce h | sends h => cases h <;> exact .inl (by simp [State.txc, State.txd])
  | maint h => cases h <;> exact .inl (by simp [State.txc])
  | _ => exact .inl rfl

/-- At the beginning of START in Waiting no `wait` is under way: the pump is at IDLE (R161, R194). -/
theorem Inv.no_wait_of_startBrings (hI : Inv s) (h : StartBrings s) : s.waitLeft = 0 := by
  rcases h with ⟨here, _, hrun⟩ | ⟨_, hzero⟩
  · by_contra hleft
    have hidle := (hI.pump_idle (.inl hrun)).2
    simpa [here, hidle, HostPhase.brings, PumpPhase.brings] using hI.waitUnderWay hleft
  · exact hzero

/-- At the beginning of BRINGUP no `wait` is under way: START brings up in Waiting only (R142, R194). -/
theorem Inv.no_wait_of_bringupBrings (hI : Inv s) (hrun : s.runState = .starting) (h : BringupBrings s) :
    s.waitLeft = 0 := by
  rcases h with here | ⟨_, hzero⟩
  · by_contra hleft
    have hhost : s.hph.brings = true := (hI.waitUnderWay hleft).resolve_right (by simp [here, PumpPhase.brings])
    have hplace := hI.hostRun
    cases hhph : s.hph <;> simp_all [HostPhase.brings, hostRunOk]
  · exact hzero

/-- A turn that changes the time left of a `wait` is TIMEBASE's, or one of a bring-up with no `wait` under way. -/
theorem TurnMove.waitLeft (h : TurnMove s t) (hI : Inv s) (hne : t.waitLeft ≠ s.waitLeft) :
    (∃ us, s.turn = .timebase us ∧ t.waitLeft = s.waitLeft - us) ∨
    (s.waitLeft = 0 ∧ ((s.runState = .waiting ∧ (∃ v, fetch s = .run .start v) ∧ ∃ g k, s.turn = .host g k) ∨
      (s.runState = .starting ∧ s.ph = 1#4 ∧ ∃ g k, s.turn = .pump g k))) := by
  cases hturn : s.turn with
  | host g k =>
    rcases h.host_of_inv hI hturn with ⟨f, rest, _, rfl⟩ | ⟨v, i, hr⟩ | ⟨hport, _⟩
    · exact absurd rfl hne
    · have hleft : v.waitLeft = s.waitLeft := (congrArg State.waitLeft hr.port :)
      have hrun : v.runState = s.runState := (congrArg State.runState hr.port :)
      rcases hr.move.waitLeft with hsame | ⟨rfl, here⟩
      · exact absurd (hsame.trans hleft) hne
      · exact .inr ⟨hleft.symm.trans (hr.inv.no_wait_of_startBrings here),
          .inl ⟨hrun.symm.trans (here.waiting_of_hostRun hr.inv.hostRun), ⟨v, hr.fetched⟩, g, k, rfl⟩⟩
    · exact absurd (congrArg State.waitLeft hport :) hne
  | pump g k =>
    rcases h.pump hturn with ⟨f, rest, _, rfl⟩ | ⟨i, _, hph, hm⟩
    · exact absurd rfl hne
    · rcases hm.waitLeft with hsame | ⟨rfl, here⟩
      · exact absurd hsame hne
      · have hp : s.ph = Ph.bringup := (Code.phase.inj hph).symm
        have hrun := (pumpPlaceOk_bringup_iff.1 (hp ▸ hI.pumpPlace)).2.1
        exact .inr ⟨hI.no_wait_of_bringupBrings hrun here, .inr ⟨hrun, hp, g, k, rfl⟩⟩
  | timebase us =>
    rw [h.timebase_eq hturn]
    exact .inl ⟨us, rfl, rfl⟩

/-- Settles O40: the two deadlines, the `wait` items of both agents, TIMEBASE's turns, and every other step. -/
theorem waitsHoldUntilTheDeadline : Obligations.WaitsHoldUntilTheDeadline := by
  refine ⟨fun s => execWaitpre_early, fun s => execWaitpre_due, fun s => execWaitsub_early, fun s => execWaitsub_due,
    fun s us rest here hzero => exec_bringOp_beginsWait (who := .host) ⟨hzero, here⟩,
    fun s items => execStart_waiting,
    fun s us rest here hzero => exec_bringOp_beginsWait (who := .pump) ⟨hzero, here⟩,
    fun s items => execBringup_waiting, fun s ds ts hsched => ?_, fun s t hI h hne => ?_⟩
  · obtain ⟨t, hrun, hnow, hleft⟩ := run_timebase ds hsched
    exact ⟨t, hrun, hnow, by omega⟩
  · have hm := step_moves h
    simpa [BringsUp, Runs, hm.turn_eq] using hm.waitLeft hI.takeTurn (by simpa using hne)

end Waits
end Sys2Proof.Machine
end

section
/-! BRINGUP brings up and enters the loop: one at-once turn, and the whole operation over its turns (R162, R194). -/

namespace Sys2Proof.Machine

section Bringup
variable {s : State} {items : List BringItem}

/-- BRINGUP in one at-once turn with no `wait` left: the items are done and the loop begins. -/
theorem execBringup_done (h : BringTakesUp .pump items s) (hg : turnGrain s.turn = .atOnce)
    (hnone : bringWaitAt items = none) :
    exec .bringup s = .next (s.broughtThrough .pump (bringHead items)).broughtUp := by
  have hexec := exec_bringOp_atOnce h hg
  rwa [bringUp_of_no_wait s .pump hnone, ← bringHead_of_no_wait hnone] at hexec

/-- BRINGUP in one at-once turn with a `wait` left: the items before it are done and it is under way. -/
theorem execBringup_waits {us : Nat} {rest : List BringItem} (h : BringTakesUp .pump items s)
    (hg : turnGrain s.turn = .atOnce) (hwait : bringWaitAt items = some (us, rest)) :
    exec .bringup s = .next (((s.broughtThrough .pump (bringHead items)).beginWait us).pumpAt (.bring rest)) := by
  have hexec := exec_bringOp_atOnce h hg
  rwa [bringUp_of_wait s .pump hwait] at hexec

/-- One at-once turn of BRINGUP, at its beginning or with a `wait` over: the items up to the next `wait` are done, and
then it waits or enters the loop. -/
theorem bringup_turn (h : BringTakesUp .pump items s) (hg : turnGrain s.turn = .atOnce) :
    ∃ t, exec .bringup s = .next t ∧ Brought .pump (bringHead items) s t ∧
      (bringWaitAt items = none → t.runState = .running ∧ t.sf = 0 ∧ PumpAt t 2#4 ∧ t.waitLeft = s.waitLeft) ∧
      (∀ us rest, bringWaitAt items = some (us, rest) →
        t.runState = s.runState ∧ t.sf = s.sf ∧ t.ph = s.ph ∧ t.pph = .bring rest ∧ t.waitLeft = us) ∧
      BringFrame s t ∧ SamePort s t ∧ t.now = s.now ∧ t.turn = s.turn ∧ t.sched = s.sched := by
  obtain ⟨hbrought, hframe, ⟨hph, hsf, _⟩, hport, hrun, hnow, hleft, hturn, hsched⟩ :=
    broughtThrough_effect s .pump (bringHead items)
  have hhead := bringWaitAt_bringHead items
  rw [bringWaits_of_no_wait hhead] at hnow
  simp only [hhead, Option.isNone_none, if_true] at hleft
  cases hw : bringWaitAt items with
  | none =>
    exact ⟨_, execBringup_done h hg hw, hbrought, fun _ => ⟨rfl, rfl, ⟨rfl, rfl⟩, hleft⟩, nofun, hframe, hport, hnow,
      hturn, hsched⟩
  | some w =>
    obtain ⟨us, rest⟩ := w
    refine ⟨_, execBringup_waits h hg hw, hbrought, nofun, fun us' rest' heq => ?_, hframe, hport, hnow, hturn, hsched⟩
    cases heq
    exact ⟨hrun, hsf, hph, rfl, rfl⟩

/-- Settles O38: one turn does the items up to the next `wait`; the turns together do them all, and then the loop
begins. -/
theorem bringupSendsAndRuns : Obligations.BringupSendsAndRuns := by
  refine ⟨fun s items hg hcase => bringup_turn ?_ hg, fun s k ts hph here hfs hsched => ?_⟩
  · rcases hcase with hbegins | ⟨here, hzero⟩
    · exact .inl hbegins
    · exact .inr ⟨hzero, here⟩
  · have hwhole := run_onceTurns (who := .pump) s.cfg.bringupSeq ⟨hfs, hph⟩ (.inl ⟨here, rfl⟩) hsched
    obtain ⟨hbrought, hframe, ⟨hph', hsf, hpph⟩, hport, hrun, hnow, hleft, _, hsched⟩ :=
      broughtThrough_effect (s.overTo .pump (.pump .atOnce k) ts) .pump s.cfg.bringupSeq
    refine ⟨_, hwhole, hbrought, hrun, hsf, ⟨hph', hpph⟩, hnow, fun hzero => ?_, hframe, hport, hsched⟩
    have hzero' : (s.overTo .pump (.pump .atOnce k) ts).waitLeft = 0 := hzero
    rw [hzero', ite_self] at hleft
    exact hleft

end Bringup
end Sys2Proof.Machine
end

section
/-! A subframe that serves what the checkpoint finds (R169, R177, R198, R271). -/

namespace Sys2Proof.Machine

section Subframe
variable {s t : State} {n a : Nat} {sent : List BusEvent} {ts : List Turn}

/-! ### MAINT answers, and what it sends -/

/-- The bytes MAINT sends are those of the cells, SF and the queue. -/
theorem maintBytes_congr (hsf : t.sf = s.sf) (hcells : SameCells s t) (hqueue : t.cmdq = s.cmdq ∧ t.cmdqLen = s.cmdqLen) :
    maintBytes t = maintBytes s := by
  obtain ⟨_, hcopy, hcmd, hcreq⟩ := hcells
  simp [maintBytes, State.queuedBytes, hsf, hcopy, hcmd, hcreq, hqueue]

/-- MAINT at once sends the bytes of `maintBytes`, goes to WAITSUB, and keeps to the pump's rights (R169). -/
structure Maintains (s t : State) : Prop where
  writes : PumpWrites s t
  log : t.busLog = s.busLog ++ burstEvents false (maintBytes s) .pump
  place : PumpAt t 9#4
  sf : t.sf = s.sf
  stamps : SameStamps s t
  runState : t.runState = s.runState
  frames : t.pumpTx = s.pumpTx

theorem maintains_silently (hw : PumpWrites s t) (hbytes : maintBytes s = []) (hplace : PumpAt t 9#4)
    (hsf : t.sf = s.sf) (hstamps : SameStamps s t) (hrun : t.runState = s.runState) (hbus : SameBus s t) :
    Maintains s t := by
  obtain ⟨_, _, _, _, _, hlog, _, hfs⟩ := hbus
  exact ⟨hw, by simp [hlog, hbytes, burstEvents], hplace, hsf, hstamps, hrun, hfs⟩

/-- Under ConfigOK MAINT at once serves what it finds, and cannot fail (R169, R221). -/
theorem execMaint_maintains (h : AtStart s) (hok : s.cfg.ok = true) (hs : s.planesOk = true) :
    ∃ t, exec .maint s = .next t ∧ Maintains s t := by
  by_cases hsf : s.sf = 2
  · rw [execMaint_serves h hsf]
    cases hcopy : s.copyPending with
    | true =>
      refine ⟨s.composeAll.clearCopy.goto Ph.waitsub, by simp [State.serveOne, hcopy, hs], ?_⟩
      exact maintains_silently rfl (by simp [maintBytes, hcopy]) ⟨rfl, rfl⟩ rfl ⟨rfl, rfl⟩ rfl (by simp [SameBus])
    | false =>
      cases hcreq : s.creq with
      | some lvl =>
        obtain ⟨c, hc⟩ := contrastAt_of_ok hok lvl
        exact ⟨_, serveOne_contrast hcopy hcreq hc,
          maintains_silently rfl (by simp [maintBytes, hcreq]) ⟨rfl, rfl⟩ rfl ⟨rfl, rfl⟩ rfl (by simp [SameBus])⟩
      | none =>
        cases hcmd : s.pendingCmd with
        | false =>
          exact ⟨_, serveOne_nothing hcopy hcreq hcmd,
            maintains_silently rfl (by simp [maintBytes, hcmd]) ⟨rfl, rfl⟩ rfl ⟨rfl, rfl⟩ rfl (by simp [SameBus])⟩
        | true =>
          refine ⟨_, serveOne_queue hcopy hcreq hcmd, (sendBurst_pump_writes ..).trans rfl, ?_, ⟨rfl, rfl⟩,
            sendBurst_sf .., ⟨sendBurst_ts1 .., sendBurst_ts3 ..⟩, sendBurst_runState .., sendBurst_pumpTx ..⟩
          rw [maintBytes, if_pos ⟨hsf, hcopy, hcreq, hcmd⟩]
          exact sendBurst_busLog ..
  · exact ⟨_, execMaint_passes h.1 hsf,
      maintains_silently rfl (by simp [maintBytes, hsf]) ⟨rfl, rfl⟩ rfl ⟨rfl, rfl⟩ rfl (by simp [SameBus])⟩

/-- A turn of MAINT in the pump's loop. -/
theorem Ready.maint (h : Ready s 8#4 (.pump .atOnce 0 :: ts)) (hok : s.cfg.ok = true) (hs : s.planesOk = true) :
    ∃ t, step s = .next t ∧ Maintains (s.pumpTurn ts) t ∧ Ready t 9#4 ts := by
  obtain ⟨t, hexec, hm⟩ := execMaint_maintains h.atStart hok hs
  exact ⟨t, (h.step_eq (i := .maint) rfl).trans hexec, hm, hm.place, hm.frames.trans h.frames,
    (congrArg State.sched hm.writes :)⟩

/-! ### The subframe -/

theorem Goes.queue (h : Goes n s sent a t) : t.cmdq = s.cmdq ∧ t.cmdqLen = s.cmdqLen :=
  ⟨(congrArg State.cmdq h.frame :), (congrArg State.cmdqLen h.frame :)⟩

theorem Goes.port (h : Goes n s sent a t) : SamePort s t :=
  ⟨(congrArg State.hop h.frame :), (congrArg State.hph h.frame :), (congrArg State.responses h.frame :)⟩

theorem SameLogical.trans {u : State} (h : SameLogical s t) (h' : SameLogical t u) : SameLogical s u :=
  ⟨h'.1.trans h.1, h'.2.trans h.2⟩

theorem SamePort.trans {u : State} (h : SamePort s t) (h' : SamePort t u) : SamePort s u :=
  ⟨h'.1.trans h.1, h'.2.1.trans h.2.1, h'.2.2.trans h.2.2⟩

/-- Settles O47: seven turns to MAINT, MAINT, and three turns to the next subframe. -/
theorem subframeSendsItsBytes : Obligations.SubframeSendsItsBytes := by
  intro s ts hok hs hph hpph hfs hsched
  have r0 : Ready s 2#4 (subframeTurns s.cfg ++ ts) := ⟨⟨hph, hpph⟩, hfs, hsched⟩
  obtain ⟨t1, g1, r1, f1, hts3⟩ := Ready.toMaint hs r0
  obtain ⟨t2, hstep, hm, r2⟩ := r1.maint (g1.cfg ▸ hok) (g1.planesOk.trans hs)
  have hcfg : t2.cfg = s.cfg := hm.writes.cfg.trans g1.cfg
  have hnow : t2.now = t1.now := hm.writes.now
  rw [← hcfg] at r2
  obtain ⟨t, g3, r3, f3⟩ := r2.toNext (hm.stamps.2.trans (hts3.trans hnow.symm))
  have hsf : t2.sf = s.sf := hm.sf.trans f1
  have hrun : t2.runState = s.runState := hm.runState.trans g1.cells.1
  have hbytes (us : List Turn) : maintBytes (t1.pumpTurn us) = maintBytes s :=
    maintBytes_congr f1 g1.cells g1.queue
  have hlog : t2.busLog = s.busLog ++ subframeEvents s s.sf ++ burstEvents false (maintBytes s) .pump := by
    rw [hm.log, hbytes]
    exact congrArg (· ++ _) g1.busLog
  refine ⟨t, run_trans g1.run ((run_succ (M := core) hstep).trans g3.run), ?_, ?_, r3.sched, f3.trans (by rw [hsf]), ?_,
    (g1.logical.trans hm.writes.logical).trans g3.logical, (g1.port.trans hm.writes.port).trans g3.port⟩
  · rw [g3.busLog, List.append_nil, hlog]
  · rw [g3.now, hnow, g1.now, hcfg]
  · rw [← hsf, ← hrun]
    exact r3.place

end Subframe
end Sys2Proof.Machine
end

section
/-! The micro-operations one step in a turn: the reads and writes, the frames of the bursts, and the step to the successor,
against the same at once (R178, R191; log 2, log 13). -/

namespace Sys2Proof.Machine

/-- `s` with the pump at place `q`, these frames of its bursts left to shift out, the turn `tn` recorded, and these
turns next. -/
def State.sending (s : State) (q : PumpPhase) (fs : List Frame) (tn : Turn) (ts : List Turn) : State :=
  { s with pph := q, pumpTx := fs, turn := tn, sched := ts }

section Steps
variable {s u v w : State} {i : Instr} {p : BitVec 4} {q : PumpPhase} {cmds datas bytes : List Byte} {g : Grain}
  {k m n : Nat} {tn : Turn} {ts : List Turn} {f : State → State}

/-! ### Turns of the pump -/

/-- A scheduled turn of PUMP with no frame pending runs the micro-operation PH names. -/
theorem run_pump (hp : encode i = .phase s.ph) (hfs : s.pumpTx = []) (hsched : s.sched = .pump g k :: ts)
    (hexec : exec i (s.turnTo (.pump g k) ts) = .next u) : Host.Core.run core (n + 1) s = Host.Core.run core n u := by
  obtain ⟨_, _, _, hpump, _⟩ := turnRunsItsOperation
  exact run_succ (M := core) ((hpump s g k ts i hp hsched hfs).trans hexec)

/-- A burst leaves the pump's place, its pending frames and the turns, and looks at none of them. -/
theorem sendBurst_sending (s : State) (q : PumpPhase) (fs : List Frame) (tn : Turn) (ts : List Turn) (dc : Bool)
    (bytes : List Byte) (who : Agent) :
    (s.sending q fs tn ts).sendBurst dc bytes who = (s.sendBurst dc bytes who).sending q fs tn ts := by
  unfold State.sendBurst
  cases bytes.getLast? <;> rfl

/-- The frames of a burst of the pump, shifted out one in a turn, come to the burst sent whole. -/
theorem run_sending {dc : Bool} {fs : List Frame} (hother : ∀ f ∈ fs.head?, f.getLsbD 8 ≠ dc) (bytes : List Byte) :
    ∃ tn', Host.Core.run core bytes.length (s.sending q (framesOf dc bytes ++ fs) tn
      (List.replicate bytes.length (.pump g k) ++ ts)) = .next ((s.sendBurst dc bytes .pump).sending q fs tn' ts) := by
  obtain ⟨tn', hrun⟩ := run_frames (who := .pump) (g := g) (k := k) (ts := ts) hother bytes
    (s := s.sending q (framesOf dc bytes ++ fs) tn (List.replicate bytes.length (.pump g k) ++ ts)) rfl rfl
  refine ⟨tn', hrun.trans ?_⟩
  have hburst := sendBurst_sending s q fs tn (List.replicate bytes.length (.pump g k) ++ ts) dc bytes .pump
  exact congrArg (fun w : State => Host.Outcome.next (w.turnTo tn' ts)) hburst

/-- The frames of command bytes and of display-memory bytes behind them. -/
def burstFrames (cmds datas : List Byte) : List Frame := framesOf false cmds ++ framesOf true datas

theorem framesOf_true_dc (datas : List Byte) : ∀ f ∈ (framesOf true datas).head?, f.getLsbD 8 ≠ false := by
  cases datas with
  | nil => exact nofun
  | cons b bs => simp [framesOf, frameBits_dc]

/-- `s` with command bytes and display-memory bytes behind them sent whole. -/
def State.sentBursts (s : State) (cmds datas : List Byte) : State := (s.txc cmds .pump).txd datas .pump

/-- Both bursts, shifted out frame by frame, come to the bursts sent whole. -/
theorem run_sending_bursts (cmds datas : List Byte) :
    ∃ tn', Host.Core.run core (cmds.length + datas.length) (s.sending q (burstFrames cmds datas) tn
      (List.replicate (cmds.length + datas.length) (.pump g k) ++ ts)) =
      .next ((s.sentBursts cmds datas).sending q [] tn' ts) := by
  obtain ⟨tn1, hcmds⟩ := run_sending (s := s) (q := q) (tn := tn) (g := g) (k := k)
    (ts := List.replicate datas.length (.pump g k) ++ ts) (framesOf_true_dc datas) cmds
  obtain ⟨tn2, hdatas⟩ := run_sending (s := s.txc cmds .pump) (q := q) (tn := tn1) (g := g) (k := k) (ts := ts)
    (dc := true) (fs := []) nofun datas
  rw [List.append_nil] at hdatas
  rw [List.replicate_add, List.append_assoc]
  exact ⟨tn2, run_trans (M := core) hcmds hdatas⟩

/-! ### From the frames handed over to the end -/

theorem sending_nil (hfs : s.pumpTx = []) (q : PumpPhase) (tn : Turn) (ts : List Turn) :
    s.sending q [] tn ts = (s.turnTo tn ts).pumpAt q := by
  rw [State.sending, ← hfs]
  rfl

/-- What is handed over with no frame pending is what is left to shift out. -/
theorem enqueue_pumpAt (hfs : s.pumpTx = []) (fs : List Frame) (q : PumpPhase) (tn : Turn) (ts : List Turn) :
    ((s.turnTo tn ts).enqueue .pump fs).pumpAt q = s.sending q fs tn ts := by
  simp [State.enqueue, State.turnTo, State.pumpAt, State.sending, hfs]

/-- From the bursts handed over, their frames and the last turn of the operation come to `f` of the bursts sent whole. -/
theorem run_sending_ends (hp : encode i = .phase s.ph) (hfs : s.pumpTx = [])
    (hends : ∀ w : State, w.pph = q → exec i w = .next (f w)) (cmds datas : List Byte) :
    Host.Core.run core (cmds.length + datas.length + 1) (s.sending q (burstFrames cmds datas) tn
      (List.replicate (cmds.length + datas.length) (.pump g k) ++ .pump g k :: ts)) =
      .next (f (((s.sentBursts cmds datas).turnTo (.pump g k) ts).pumpAt q)) := by
  obtain ⟨tn', hrun⟩ := run_sending_bursts (s := s) (q := q) (tn := tn) (g := g) (k := k) (ts := .pump g k :: ts)
    cmds datas
  have hph : (s.sentBursts cmds datas).ph = s.ph := (sendBurst_ph ..).trans (sendBurst_ph ..)
  have htx : (s.sentBursts cmds datas).pumpTx = [] := ((sendBurst_pumpTx ..).trans (sendBurst_pumpTx ..)).trans hfs
  refine run_trans (M := core) hrun ?_
  rw [sending_nil htx]
  exact run_pump (n := 0) (hp.trans (congrArg Code.phase hph.symm)) htx rfl (hends _ rfl)

/-- A micro-operation whose first `m` turns hand two bursts over, and whose last turn is `f` once they are sent, comes to
the state of `f` after the bursts sent whole. -/
theorem turnsComeTo_of_sending (hp : encode i = .phase v.ph) (hfs : v.pumpTx = [])
    (hhands : ∀ ts, Host.Core.run core m (s.turnTo s.turn (List.replicate m (.pump .stepwise k) ++ ts)) =
      .next (v.sending q (burstFrames cmds datas) (.pump .stepwise k) ts))
    (hends : ∀ w : State, w.pph = q → exec i w = .next (f w))
    (honce : ∀ ts, exec i (s.turnTo (.pump .atOnce k) ts) =
      .next (f ((v.sentBursts cmds datas).turnTo (.pump .atOnce k) ts)))
    (hf : ∀ (w : State) (tn tn' : Turn) (ts : List Turn),
      EqUpToTurn (f (w.turnTo tn ts)) (f ((w.turnTo tn' ts).pumpAt q)))
    (hn : n = m + (cmds.length + datas.length + 1)) :
    TurnsComeTo s (List.replicate n (.pump .stepwise k)) i (.pump .atOnce k) := by
  intro ts
  have hsched : List.replicate n (Turn.pump .stepwise k) ++ ts = List.replicate m (.pump .stepwise k) ++
      (List.replicate (cmds.length + datas.length) (.pump .stepwise k) ++ .pump .stepwise k :: ts) := by
    rw [hn, List.replicate_add, List.replicate_succ', List.append_assoc, List.append_assoc]
    rfl
  have hrun := run_trans (M := core) (hhands _)
    (run_sending_ends (ts := ts) (tn := .pump .stepwise k) (g := .stepwise) (k := k) hp hfs hends cmds datas)
  rw [← hsched, ← hn] at hrun
  exact ⟨_, _, (congrArg (Host.Core.run core · _) List.length_replicate).trans hrun, honce ts, hf _ _ _ ts⟩

/-- A change of the turns goes through two bursts. -/
theorem sentBursts_turnTo (s : State) (cmds datas : List Byte) (tn : Turn) (ts : List Turn) :
    (s.turnTo tn ts).sentBursts cmds datas = (s.sentBursts cmds datas).turnTo tn ts := by
  rw [State.sentBursts, State.txc, sendBurst_turnTo, State.txd, sendBurst_turnTo]
  rfl

/-! ### The micro-operations that send -/

/-- Both grains of a micro-operation that sends: `v` is the state with its stamp taken; one turn hands the bursts over, and
the last goes to the successor (R163, R165 to R168, R173). -/
structure SendsBursts (i : Instr) (s v : State) (cmds datas : List Byte) (p : BitVec 4) : Prop where
  stepwise : turnGrain s.turn = .stepwise →
    exec i s = .next ((v.enqueue .pump (burstFrames cmds datas)).pumpAt .sent)
  atOnce : turnGrain s.turn = .atOnce → exec i s = .next ((v.sentBursts cmds datas).goto p)

theorem turnsComeTo_of_sends (hp : encode i = .phase s.ph) (hfs : s.pumpTx = [])
    (hv : v = { s with ts1 := v.ts1, ts3 := v.ts3 })
    (hsends : ∀ tn ts, SendsBursts i (s.turnTo tn ts) (v.turnTo tn ts) cmds datas p)
    (hends : ∀ w : State, w.pph = .sent → exec i w = .next (w.goto p)) (hn : n = cmds.length + datas.length + 2) :
    TurnsComeTo s (List.replicate n (.pump .stepwise k)) i (.pump .atOnce k) := by
  have hvph : v.ph = s.ph := (congrArg State.ph hv :)
  have hvfs : v.pumpTx = [] := (congrArg State.pumpTx hv :).trans hfs
  refine turnsComeTo_of_sending (m := 1) (cmds := cmds) (datas := datas) (f := (State.goto · p)) (by rwa [hvph]) hvfs
    (fun ts => ?_) hends (fun ts => ?_) (fun _ _ _ _ => rfl) (hn.trans (by omega))
  · rw [← enqueue_pumpAt hvfs]
    exact run_pump (n := 0) hp hfs rfl ((hsends (.pump .stepwise k) ts).stepwise rfl)
  · rw [(hsends (.pump .atOnce k) ts).atOnce rfl, sentBursts_turnTo]

theorem sendThenGoto_sends (here : s.pph = .start) (hexec : exec i s = v.sendThenGoto bytes p)
    (hv : v.pph = s.pph ∧ v.turn = s.turn) : SendsBursts i s v bytes [] p := by
  obtain ⟨hpph, hturn⟩ := hv
  refine ⟨fun hg => ?_, fun hg => ?_⟩ <;>
    simp [hexec, State.sendThenGoto, hpph, here, hturn, hg, burstFrames, framesOf, State.sentBursts, State.txd]

theorem sendThenGoto_sent (hs : s.pph = .sent) (bytes : List Byte) : s.sendThenGoto bytes p = .next (s.goto p) := by
  simp only [State.sendThenGoto, hs]

theorem sendPlane_sends {m : Memory} (hplanes : v.planesOk = true) (hexec : exec i s = v.sendPlane m p)
    (hv : v.turn = s.turn) : SendsBursts i s v v.cfg.txplanePrefix m.bytes p := by
  refine ⟨fun hg => ?_, fun hg => ?_⟩ <;> simp only [hexec, State.sendPlane, hv, hg, if_pos hplanes] <;> rfl

theorem execPark_begins (here : s.pph = .start) :
    exec .park s = { s with ts1 := s.now }.sendThenGoto s.cfg.parkSeq Ph.waitpre := by
  simp only [exec, execPark, here]

theorem execPark_sent (here : s.pph = .sent) : exec .park s = .next (s.goto Ph.waitpre) := by
  simp only [exec, execPark, here]
  exact sendThenGoto_sent here _

theorem execTxplane_begins (here : s.pph = .start) :
    exec .txplane s = { s with ts3 := s.now }.sendPlane (s.derived s.sf) Ph.cadj1 := by
  simp only [exec, execTxplane, here]

theorem execTxplane_sent (here : s.pph = .sent) : exec .txplane s = .next (s.goto Ph.cadj1) := by
  simp only [exec, execTxplane, here]

theorem execTxfinal_begins (here : s.pph = .start) : exec .txfinal s = s.sendPlane s.dp0 Ph.setstop := by
  simp only [exec, execTxfinal, here]

theorem execTxfinal_sent (here : s.pph = .sent) : exec .txfinal s = .next (s.goto Ph.setstop) := by
  simp only [exec, execTxfinal, here]

/-- PARK, CADJ1, RESUME, CADJ2: a burst of command bytes. -/
theorem commands_turnsComeTo (hp : encode i = .phase s.ph) (here : s.pph = .start) (hfs : s.pumpTx = [])
    (hv : v = { s with ts1 := v.ts1, ts3 := v.ts3 })
    (hbegins : ∀ tn ts, exec i (s.turnTo tn ts) = (v.turnTo tn ts).sendThenGoto bytes p)
    (hends : ∀ w : State, w.pph = .sent → exec i w = .next (w.goto p)) (k : Nat) :
    TurnsComeTo s (List.replicate (bytes.length + 2) (.pump .stepwise k)) i (.pump .atOnce k) :=
  turnsComeTo_of_sends hp hfs hv
    (fun tn ts => sendThenGoto_sends here (hbegins tn ts) ⟨(congrArg State.pph hv :), rfl⟩) hends rfl

/-- TXPLANE, TXFINAL: TXPLANE_PREFIX and a plane. -/
theorem plane_turnsComeTo {m : Memory} (hp : encode i = .phase s.ph) (hfs : s.pumpTx = []) (hs : s.planesOk = true)
    (hv : v = { s with ts1 := v.ts1, ts3 := v.ts3 })
    (hbegins : ∀ tn ts, exec i (s.turnTo tn ts) = (v.turnTo tn ts).sendPlane m p)
    (hends : ∀ w : State, w.pph = .sent → exec i w = .next (w.goto p)) (k : Nat) :
    TurnsComeTo s (List.replicate (s.cfg.txplanePrefix.length + 362) (.pump .stepwise k)) i (.pump .atOnce k) := by
  have hcfg : v.cfg = s.cfg := (congrArg State.cfg hv :)
  have hplanes : v.planesOk = true := (congrArg State.planesOk hv :).trans hs
  refine turnsComeTo_of_sends (cmds := v.cfg.txplanePrefix) (datas := m.bytes) hp hfs hv
    (fun tn ts => sendPlane_sends (v := v.turnTo tn ts) hplanes (hbegins tn ts) rfl) hends ?_
  rw [hcfg, Memory.bytes_length]

/-! ### MAINT step by step (R169) -/

theorem execMaint_looksAtCreq (here : s.pph = .start) (hg : turnGrain s.turn = .stepwise) (hsf : s.sf = 2)
    (hfree : s.copyPending = false) : exec .maint s = .next (s.pumpAt .readCreq) := by
  simp [exec, execMaint, here, hg, hsf, hfree]

theorem execMaint_takesCreq {lvl : Byte} (here : s.pph = .readCreq) (hreq : s.creq = some lvl) :
    exec .maint s = .next (s.pumpAt (.recompute lvl)) := by
  simp only [exec, execMaint, here, hreq]

theorem execMaint_recomputes {lvl : Byte} {c : Cadj} (here : s.pph = .recompute lvl)
    (hc : contrastAt s.cfg lvl = some c) : exec .maint s = .next ((s.recomputed c).pumpAt .clearCreq) := by
  simp only [exec, execMaint, here, hc]

theorem execMaint_clearsCreq (here : s.pph = .clearCreq) : exec .maint s = .next (s.clearCreq.goto Ph.waitsub) := by
  simp only [exec, execMaint, here]

theorem execMaint_looksAtCmd (here : s.pph = .readCreq) (hnone : s.creq = none) :
    exec .maint s = .next (s.pumpAt .readCmd) := by
  simp only [exec, execMaint, here, hnone]

theorem execMaint_takesCmd (here : s.pph = .readCmd) (hreq : s.pendingCmd = true) :
    exec .maint s = .next ((s.enqueue .pump (burstFrames s.queuedBytes [])).pumpAt .clearCmd) := by
  simp [exec, execMaint, here, hreq, burstFrames, framesOf]

theorem execMaint_ends (here : s.pph = .readCmd) (hcmd : s.pendingCmd = false) :
    exec .maint s = .next (s.goto Ph.waitsub) := by
  simp [exec, execMaint, here, hcmd]

theorem execMaint_clearsCmd (here : s.pph = .clearCmd) : exec .maint s = .next (s.clearCmd.goto Ph.waitsub) := by
  simp only [exec, execMaint, here]

/-- MAINT is at its beginning at the checkpoint, with no copy to serve and no frame pending (R169). -/
structure AtCheckpoint (s : State) : Prop where
  ph : s.ph = 8#4
  here : s.pph = .start
  frames : s.pumpTx = []
  sf : s.sf = 2
  free : s.copyPending = false

theorem AtCheckpoint.turnTo (h : AtCheckpoint s) (tn : Turn) (ts : List Turn) : AtCheckpoint (s.turnTo tn ts) :=
  ⟨h.ph, h.here, h.frames, h.sf, h.free⟩

theorem AtCheckpoint.code (h : AtCheckpoint s) : encode .maint = .phase s.ph := congrArg Code.phase h.ph.symm

theorem AtCheckpoint.serves (h : AtCheckpoint s) (hg : turnGrain s.turn = .atOnce) : exec .maint s = s.serveOne :=
  execMaint_serves ⟨h.here, hg⟩ h.sf

/-- A turn of MAINT from a place of its own (R169). -/
theorem AtCheckpoint.run_turn (h : AtCheckpoint s) (hw : w = { s with pph := q, cadj := w.cadj })
    (hexec : exec .maint (w.turnTo (.pump g k) ts) = .next (v.turnTo (.pump g k) ts)) :
    Host.Core.run core (n + 1) (w.turnTo tn (.pump g k :: ts)) = Host.Core.run core n (v.turnTo (.pump g k) ts) := by
  have hph : w.ph = 8#4 := (congrArg State.ph hw :).trans h.ph
  have hfs : w.pumpTx = [] := (congrArg State.pumpTx hw :).trans h.frames
  exact run_pump (i := .maint) (s := w.turnTo tn (.pump g k :: ts)) (congrArg Code.phase hph.symm) hfs rfl hexec

/-- The first turn reads COPYPENDING (R169). -/
theorem AtCheckpoint.run_looksAtCreq (h : AtCheckpoint s) :
    Host.Core.run core (n + 1) (s.turnTo tn (.pump .stepwise k :: ts)) =
      Host.Core.run core n ((s.pumpAt .readCreq).turnTo (.pump .stepwise k) ts) :=
  h.run_turn (w := s) rfl (execMaint_looksAtCreq (s := s.turnTo (.pump .stepwise k) ts) h.here rfl h.sf h.free)

/-- With no copy and no contrast request the second turn reads CREQ (R169). -/
theorem AtCheckpoint.run_looksAtCmd (h : AtCheckpoint s) (hnone : s.creq = none) :
    Host.Core.run core (n + 2) (s.turnTo tn (.pump .stepwise k :: .pump .stepwise k :: ts)) =
      Host.Core.run core n ((s.pumpAt .readCmd).turnTo (.pump .stepwise k) ts) :=
  h.run_looksAtCreq.trans (h.run_turn (w := s.pumpAt .readCreq) rfl
    (execMaint_looksAtCmd (s := (s.pumpAt .readCreq).turnTo (.pump .stepwise k) ts) rfl hnone))

/-- The contrast request takes four turns: the two reads, the recomputation, and the clear. -/
theorem AtCheckpoint.contrast_turnsComeTo {lvl : Byte} (h : AtCheckpoint s) (hreq : s.creq = some lvl)
    (hok : s.cfg.ok = true) (k : Nat) :
    TurnsComeTo s (List.replicate 4 (.pump .stepwise k)) .maint (.pump .atOnce k) := by
  intro ts
  obtain ⟨c, hc⟩ := contrastAt_of_ok hok lvl
  have honce := ((h.turnTo (.pump .atOnce k) ts).serves rfl).trans
    (serveOne_contrast (s := s.turnTo (.pump .atOnce k) ts) h.free hreq hc)
  have htakes := h.run_turn (w := s.pumpAt .readCreq) (v := s.pumpAt (.recompute lvl)) (g := .stepwise) (k := k)
    (tn := .pump .stepwise k) (n := 2) (ts := List.replicate 2 (.pump .stepwise k) ++ ts) rfl
    (execMaint_takesCreq rfl hreq)
  have hrecomputes := h.run_turn (w := s.pumpAt (.recompute lvl)) (v := (s.recomputed c).pumpAt .clearCreq)
    (g := .stepwise) (k := k) (tn := .pump .stepwise k) (n := 1) (ts := .pump .stepwise k :: ts) rfl
    (execMaint_recomputes rfl hc)
  have hclears := h.run_turn (w := (s.recomputed c).pumpAt .clearCreq) (v := (s.recomputed c).clearCreq.goto Ph.waitsub)
    (g := .stepwise) (k := k) (tn := .pump .stepwise k) (n := 0) (ts := ts) rfl (execMaint_clearsCreq rfl)
  exact ⟨_, _, h.run_looksAtCreq.trans (htakes.trans (hrecomputes.trans hclears)), honce, rfl⟩

/-- With nothing to serve MAINT takes three turns: its three reads. -/
theorem AtCheckpoint.nothing_turnsComeTo (h : AtCheckpoint s) (hnone : s.creq = none) (hcmd : s.pendingCmd = false)
    (k : Nat) : TurnsComeTo s (List.replicate 3 (.pump .stepwise k)) .maint (.pump .atOnce k) := by
  intro ts
  have honce := ((h.turnTo (.pump .atOnce k) ts).serves rfl).trans
    (serveOne_nothing (s := s.turnTo (.pump .atOnce k) ts) h.free hnone hcmd)
  have hends := h.run_turn (w := s.pumpAt .readCmd) (v := s.goto Ph.waitsub) (g := .stepwise) (k := k)
    (tn := .pump .stepwise k) (n := 0) (ts := ts) rfl (execMaint_ends rfl hcmd)
  exact ⟨_, _, (h.run_looksAtCmd hnone).trans hends, honce, rfl⟩

/-- The queue takes three turns until it is handed over, its frames, and the clear. -/
theorem AtCheckpoint.queue_turnsComeTo (h : AtCheckpoint s) (hnone : s.creq = none) (hreq : s.pendingCmd = true)
    (k : Nat) :
    TurnsComeTo s (List.replicate (s.queuedBytes.length + 4) (.pump .stepwise k)) .maint (.pump .atOnce k) := by
  refine turnsComeTo_of_sending (m := 3) (cmds := s.queuedBytes) (datas := []) (v := s)
    (f := fun w => w.clearCmd.goto Ph.waitsub) h.code h.frames (fun ts => ?_) (fun _ => execMaint_clearsCmd)
    (fun ts => ?_) (fun _ _ _ _ => rfl) (by rw [List.length_nil]; omega)
  · have htakes := h.run_turn (w := s.pumpAt .readCmd)
      (v := (s.enqueue .pump (burstFrames s.queuedBytes [])).pumpAt .clearCmd) (g := .stepwise) (k := k)
      (tn := .pump .stepwise k) (n := 0) (ts := ts) rfl (execMaint_takesCmd rfl hreq)
    rw [← enqueue_pumpAt h.frames]
    exact (h.run_looksAtCmd hnone).trans htakes
  · have honce := ((h.turnTo (.pump .atOnce k) ts).serves rfl).trans
      (serveOne_queue (s := s.turnTo (.pump .atOnce k) ts) h.free hnone hreq)
    rw [honce, ← sentBursts_turnTo]
    rfl

/-- Settles O29: the six micro-operations that send, and the three services of MAINT that are no COMPOSE. -/
theorem pumpStepByStepEqualsAtOnce : Obligations.PumpStepByStepEqualsAtOnce := by
  intro s k here hfs
  have code {i : Instr} {c : BitVec 4} (hp : s.ph = c) (hi : encode i = .phase c) : encode i = .phase s.ph := hp ▸ hi
  have sent (bytes : List Byte) (p : BitVec 4) (w : State) (hw : w.pph = .sent) :
      w.sendThenGoto bytes p = .next (w.goto p) := sendThenGoto_sent hw bytes
  refine ⟨fun hp => ?_, fun hp hs => ?_, fun hp => ?_, fun hp => ?_, fun hp => ?_, fun hp hs => ?_,
    fun hp hsf hfree => ?_⟩
  · exact commands_turnsComeTo (v := { s with ts1 := s.now }) (code hp rfl) here hfs rfl
      (fun tn ts => execPark_begins (s := s.turnTo tn ts) here) (fun _ => execPark_sent) k
  · exact plane_turnsComeTo (v := { s with ts3 := s.now }) (m := s.derived s.sf) (code hp rfl) hfs hs rfl
      (fun tn ts => execTxplane_begins (s := s.turnTo tn ts) here) (fun _ => execTxplane_sent) k
  · exact commands_turnsComeTo (i := .cadj1) (v := s) (bytes := pairBytes s.cadj s.sf) (code hp rfl) here hfs rfl
      (fun _ _ => rfl) (fun w => sent (pairBytes w.cadj w.sf) Ph.resume w) k
  · exact commands_turnsComeTo (i := .resume) (v := s) (bytes := s.cfg.resumeSeq) (code hp rfl) here hfs rfl
      (fun _ _ => rfl) (fun w => sent w.cfg.resumeSeq Ph.cadj2 w) k
  · exact commands_turnsComeTo (i := .cadj2) (v := s) (bytes := pairBytes s.cadj s.sf) (code hp rfl) here hfs rfl
      (fun _ _ => rfl) (fun w => sent (pairBytes w.cadj w.sf) Ph.maint w) k
  · exact plane_turnsComeTo (v := s) (m := s.dp0) (code hp rfl) hfs hs rfl
      (fun tn ts => execTxfinal_begins (s := s.turnTo tn ts) here) (fun _ => execTxfinal_sent) k
  · have h : AtCheckpoint s := ⟨hp, here, hfs, hsf, hfree⟩
    refine ⟨fun hreq hok => ?_, fun hnone hreq => h.queue_turnsComeTo hnone hreq k,
      fun hnone hcmd => h.nothing_turnsComeTo hnone hcmd k⟩
    obtain ⟨lvl, hlvl⟩ := Option.isSome_iff_exists.1 hreq
    exact h.contrast_turnsComeTo hlvl hok k

end Steps
end Sys2Proof.Machine
end

section
/-! Two bursts of one agent, frame by frame against whole (R191, R192; log 13). -/

namespace Sys2Proof.Machine

section Bursts
variable {s : State} {who : Agent} {g : Grain} {k : Nat} {ts : List Turn} {cmds datas : List Byte}

/-- A burst leaves the agent's pending frames, and does not look at them. -/
theorem sendBurst_withTx (s : State) (fs : List Frame) (dc : Bool) (bytes : List Byte) (who : Agent) :
    (s.withTx who fs).sendBurst dc bytes who = (s.sendBurst dc bytes who).withTx who fs := by
  unfold State.sendBurst
  cases bytes.getLast? <;> cases who <;> rfl

/-- A command burst with display-memory frames behind it, shifted out in turns of its agent, leaves those frames pending
behind the burst sent whole. -/
theorem run_commandFrames (hpend : s.pendingTx who = burstFrames cmds datas)
    (hsched : s.sched = List.replicate cmds.length (who.turnOf g k) ++ ts) :
    ∃ tn, Host.Core.run core cmds.length s =
      .next (((s.sendBurst false cmds who).withTx who (framesOf true datas)).turnTo tn ts) := by
  obtain ⟨tn, hrun⟩ := run_frames (framesOf_true_dc datas) cmds hpend hsched
  rw [sendBurst_withTx] at hrun
  exact ⟨tn, hrun⟩

/-- The frames of both bursts, shifted out in turns of their agent, come to the bursts sent whole: the first burst ends
where DC changes, so each of the two runs of frames is a burst of its own. -/
theorem run_bothBursts (hpend : s.pendingTx who = burstFrames cmds datas)
    (hsched : s.sched = List.replicate (cmds.length + datas.length) (who.turnOf g k) ++ ts) :
    ∃ tn, Host.Core.run core (cmds.length + datas.length) s =
      .next ((((s.withTx who []).sendBurst false cmds who).sendBurst true datas who).turnTo tn ts) := by
  rw [List.replicate_add, List.append_assoc] at hsched
  obtain ⟨tn, hcmds⟩ := run_commandFrames hpend hsched
  obtain ⟨tn', hdatas⟩ := run_burst (s := (s.withTx who []).sendBurst false cmds who) (who := who) (dc := true)
    (g := g) (k := k) (ts := ts) (by rw [sendBurst_withTx, pendingTx_withTx]) datas tn
  have hmid : ((s.withTx who []).sendBurst false cmds who).withTx who (framesOf true datas) =
      (s.sendBurst false cmds who).withTx who (framesOf true datas) := by
    rw [sendBurst_withTx]
    cases who <;> rfl
  rw [hmid] at hdatas
  exact ⟨tn', run_trans (M := core) hcmds hdatas⟩

/-- The same from the state whose queue and schedule are used up, up to the turn recorded. -/
theorem bothBursts_eqUpToTurn (hpend : s.pendingTx who = burstFrames cmds datas)
    (hsched : s.sched = List.replicate (cmds.length + datas.length) (who.turnOf g k) ++ ts) :
    ∃ t, Host.Core.run core (cmds.length + datas.length) s = .next t ∧
      EqUpToTurn ((((s.withTx who []).turnTo s.turn ts).sendBurst false cmds who).sendBurst true datas who) t := by
  obtain ⟨tn, hrun⟩ := run_bothBursts hpend hsched
  refine ⟨_, hrun, ?_⟩
  rw [sendBurst_turnTo, sendBurst_turnTo]
  rfl

/-- Settles O46: the two bursts of either agent. -/
theorem burstFrameByFrameEqualsWhole : Obligations.BurstFrameByFrameEqualsWhole :=
  fun _ _ _ _ _ _ => ⟨bothBursts_eqUpToTurn (who := .pump), bothBursts_eqUpToTurn (who := .host)⟩

end Bursts
end Sys2Proof.Machine
end

section
/-! From a state of the invariant every turn answers a next state: no operation stands at a place of another one, no plane
lacks bytes, no level lacks its entry of CONTRAST_MAP, TEARDOWN does not read Stopping, and PH is no reserved code
(R220, R221, R149, R176). -/

namespace Sys2Proof.Machine

/-- The answer is a next state: no fault and no refusal. -/
def Answers (r : Result) : Prop := ∃ t, r = .next t

section Answers
variable {s : State} {i : Instr} {c : Cfg} {q : HostPhase}

@[simp] theorem answers_next (t : State) : Answers (.next t) := ⟨t, rfl⟩

/-! ### The places of each host operation (R38) -/

theorem paints_places (hi : Paints i) (h : hostPlaceOk c (some i) q = true) :
    q = .issue ∨ ∃ todo, q = .writes todo ∧ todo ≠ [] := by
  cases i with
  | fill | pixel => cases q <;> simp_all [hostPlaceOk, owedOk_iff]
  | _ => exact hi.elim

theorem waitsForPump_places (hi : WaitsForPump i) (h : hostPlaceOk c (some i) q = true) :
    q = .issue ∨ q = .readRun ∨ q = .poll := by
  cases i with
  | showSync | contrastSync => cases q <;> simp_all [hostPlaceOk]
  | _ => exact hi.elim

/-- A request that is not waited for is written and responded to at its issue (R145, R146). -/
theorem request_place (hi : i = .showAsync ∨ ∃ lvl, i = .contrast lvl) (h : hostPlaceOk c (some i) q = true) :
    q = .issue := by
  rcases hi with rfl | ⟨lvl, rfl⟩ <;> cases q <;> simp_all [hostPlaceOk]

theorem start_places (h : hostPlaceOk c (some .start) q = true) : q = .issue ∨ ∃ items, q = .bring items := by
  cases q <;> simp_all [hostPlaceOk]

theorem teardown_places (h : hostPlaceOk c (some .teardown) q = true) :
    q = .issue ∨ q = .awaitRunning ∨ q = .stop ∨ q = .poll ∨ q = .restore ∨ q = .finish := by
  cases q <;> simp_all [hostPlaceOk]

theorem command_places {bytes : List Byte} (h : hostPlaceOk c (some (.command bytes)) q = true) :
    q = .issue ∨ q = .queue ∨ q = .setFlag := by
  cases q <;> simp_all [hostPlaceOk]

theorem rdstat_places (h : hostPlaceOk c (some .rdstat) q = true) :
    q = .issue ∨ (∃ r, q = .stat1 r) ∨ (∃ r p, q = .stat2 r p) ∨ ∃ r p f, q = .stat3 r p f := by
  cases q <;> simp_all [hostPlaceOk]

/-! ### Host operations answer -/

/-- FILL and PIXEL read the planes, which have their bytes (R62, R69). -/
theorem exec_paints_answers (hi : Paints i) (hs : s.planesOk = true)
    (hplace : hostPlaceOk s.cfg (some i) s.hph = true) : Answers (exec i s) := by
  rcases paints_places hi hplace with here | ⟨todo, here, hne⟩
  · cases i with
    | fill => simp only [exec, execFill, here]; split <;> exact answers_next _
    | pixel =>
      simp only [exec, execPixel, here, hs, if_true]
      split
      · split <;> exact answers_next _
      · exact answers_next _
    | _ => exact hi.elim
  · rw [exec_paints hi here]
    obtain ⟨_, ⟨_, _, _, _, h⟩ | ⟨_, _, _, _, _, h⟩⟩ := writeStep_accesses hne hs <;> exact ⟨_, h⟩

theorem exec_waitsForPump_answers (hi : WaitsForPump i) (hplace : hostPlaceOk s.cfg (some i) s.hph = true) :
    Answers (exec i s) := by
  have places := waitsForPump_places hi hplace
  rcases hi.eq_or with rfl | ⟨lvl, rfl⟩
  · rcases places with here | here | here <;> simp only [exec, execShowSync, here, answers_next]
    split <;> exact answers_next _
  · rcases places with here | here | here <;> simp only [exec, execContrastSync, here, answers_next]
    split <;> exact answers_next _

theorem exec_request_answers (hi : i = .showAsync ∨ ∃ lvl, i = .contrast lvl)
    (hplace : hostPlaceOk s.cfg (some i) s.hph = true) : Answers (exec i s) := by
  have here := request_place hi hplace
  rcases hi with rfl | ⟨lvl, rfl⟩
  · simp only [exec, execShowAsync, here, answers_next]
  · simp only [exec, execContrast, here, answers_next]

theorem exec_start_answers (hplace : hostPlaceOk s.cfg (some .start) s.hph = true) : Answers (exec .start s) := by
  rcases start_places hplace with here | ⟨items, here⟩ <;> simp only [exec, execStart, here, answers_next]
  split
  · split <;> exact answers_next _
  · exact answers_next _

/-- TEARDOWN answers wherever it stands, and at its issue because it does not read Stopping there (R149). -/
theorem exec_teardown_answers (hplace : hostPlaceOk s.cfg (some .teardown) s.hph = true)
    (hrun : s.hph = .issue → s.runState ≠ .stopping) : Answers (exec .teardown s) := by
  rcases teardown_places hplace with here | here | here | here | here | here <;>
    simp only [exec, execTeardown, here, answers_next]
  · cases hr : s.runState with
    | stopping => exact absurd hr (hrun here)
    | running => dsimp only; split <;> exact answers_next _
    | stopped | waiting | starting => exact answers_next _
  · split <;> exact answers_next _

theorem exec_command_answers {bytes : List Byte} (hplace : hostPlaceOk s.cfg (some (.command bytes)) s.hph = true) :
    Answers (exec (.command bytes) s) := by
  rcases command_places hplace with here | here | here <;> simp only [exec, execCommand, here, answers_next]
  split
  · split
    · exact answers_next _
    · split <;> exact answers_next _
  · exact answers_next _

theorem exec_rdstat_answers (hplace : hostPlaceOk s.cfg (some .rdstat) s.hph = true) : Answers (exec .rdstat s) := by
  rcases rdstat_places hplace with here | ⟨r, here⟩ | ⟨r, p, here⟩ | ⟨r, p, f, here⟩ <;>
    simp only [exec, execRdstat, here, answers_next]
  split <;> exact answers_next _

/-- "Stopping exists only while TEARDOWN is in flight", and TEARDOWN polls then (R231). -/
theorem Inv.not_stopping_of_issue (hI : Inv s) (here : s.hph = .issue) : s.runState ≠ .stopping := by
  intro hstop
  have hpoll := (hI.stopping hstop).2
  rw [here] at hpoll
  cases hpoll

/-- The operation in flight answers. -/
theorem Inv.exec_hop_answers (hI : Inv s) (hop : s.hop = some i) : Answers (exec i s) := by
  have hlayer := hI.layer_of_hop hop
  have hplace := hI.hostPlace
  rw [hop] at hplace
  cases i with
  | fill | pixel => exact exec_paints_answers trivial hI.planes hplace
  | showSync | contrastSync => exact exec_waitsForPump_answers trivial hplace
  | showAsync => exact exec_request_answers (.inl rfl) hplace
  | contrast lvl => exact exec_request_answers (.inr ⟨lvl, rfl⟩) hplace
  | start => exact exec_start_answers hplace
  | teardown => exact exec_teardown_answers hplace hI.not_stopping_of_issue
  | command => exact exec_command_answers hplace
  | rdstat => exact exec_rdstat_answers hplace
  | _ => cases hlayer

/-! ### Micro-operations answer -/

/-- A micro-operation that sends stands at its beginning or in its sending (R160). -/
theorem PumpSends.stands {u : State} {p : BitVec 4} (h : PumpSends s i u p) (hph : encode i = .phase s.ph)
    (hplace : pumpPlaceOk s.ph s.pph s.runState s.sf = true) : s.pph = .start ∨ s.pph = .sent := by
  cases h <;>
    · rw [← Code.phase.inj hph] at hplace
      simp_all [pumpPlaceOk]

theorem sendThenGoto_answers (here : s.pph = .start ∨ s.pph = .sent) (bytes : List Byte) (p : BitVec 4) :
    Answers (s.sendThenGoto bytes p) := by
  rcases here with here | here <;> simp only [State.sendThenGoto, here, answers_next]
  split <;> exact answers_next _

theorem sendPlane_answers (hs : s.planesOk = true) (m : Memory) (p : BitVec 4) : Answers (s.sendPlane m p) := by
  simp only [State.sendPlane, hs, if_true]
  split <;> exact answers_next _

theorem execPark_answers (here : s.pph = .start ∨ s.pph = .sent) : Answers (exec .park s) := by
  rcases here with here | here
  · rw [execPark_begins here]
    exact sendThenGoto_answers (s := { s with ts1 := s.now }) (.inl here) ..
  · exact ⟨_, execPark_sent here⟩

theorem execTxplane_answers (hs : s.planesOk = true) (here : s.pph = .start ∨ s.pph = .sent) :
    Answers (exec .txplane s) := by
  rcases here with here | here
  · rw [execTxplane_begins here]
    exact sendPlane_answers (s := { s with ts3 := s.now }) hs ..
  · exact ⟨_, execTxplane_sent here⟩

theorem execTxfinal_answers (hs : s.planesOk = true) (here : s.pph = .start ∨ s.pph = .sent) :
    Answers (exec .txfinal s) := by
  rcases here with here | here
  · rw [execTxfinal_begins here]
    exact sendPlane_answers hs ..
  · exact ⟨_, execTxfinal_sent here⟩

theorem execBringup_answers (here : s.pph = .start ∨ ∃ items, s.pph = .bring items) : Answers (exec .bringup s) := by
  rcases here with here | ⟨items, here⟩ <;> simp only [exec, execBringup, here, answers_next]
  split <;> exact answers_next _

theorem composeStep_answers {todo : List ComposeItem} (hne : todo ≠ []) (hs : s.planesOk = true) :
    Answers (s.composeStep todo) := by
  obtain ⟨_, _, _, _, _, ⟨_, _, _, _, h⟩ | ⟨_, h⟩⟩ := composeStep_reads hne hs <;> exact ⟨_, h⟩

/-- MAINT at its beginning: whole when taken at once, its first read when taken step by step (R169). -/
theorem execMaint_start_answers (here : s.pph = .start) (hok : s.cfg.ok = true) (hs : s.planesOk = true) :
    Answers (exec .maint s) := by
  cases hg : turnGrain s.turn with
  | atOnce =>
    obtain ⟨t, ht, _⟩ := execMaint_maintains ⟨here, hg⟩ hok hs
    exact ⟨t, ht⟩
  | stepwise =>
    simp only [exec, execMaint, here, hg]
    split <;> exact answers_next _

/-- MAINT answers at every place of its own: COMPOSE owes indices and the planes have their bytes, and every level has
its entry (R169, R212, R221). -/
theorem execMaint_answers (hok : s.cfg.ok = true) (hs : s.planesOk = true)
    (hplace : s.pph = .start ∨ s.pph.inMaint = true) : Answers (exec .maint s) := by
  cases here : s.pph with
  | start => exact execMaint_start_answers here hok hs
  | sent | bring => simp [here, PumpPhase.inMaint] at hplace
  | compose todo =>
    simp only [here, reduceCtorEq, false_or, inMaint_compose_iff] at hplace
    simp only [exec, execMaint, here]
    exact composeStep_answers hplace.1 hs
  | clearCopy | clearCreq | clearCmd => simp only [exec, execMaint, here, answers_next]
  | readCreq | readCmd =>
    simp only [exec, execMaint, here]
    split <;> exact answers_next _
  | recompute lvl =>
    obtain ⟨c, hc⟩ := contrastAt_of_ok hok lvl
    exact ⟨_, execMaint_recomputes here hc⟩

/-- PH of the invariant is a micro-operation's code (R176). -/
theorem Inv.phase_decodes (hI : Inv s) : decodePhase s.ph ≠ none := by
  intro hnone
  have hreserved : s.ph = 15#4 := (decodedWordsAreTheOperationsCode.2.2.1 s.ph).1 hnone
  have hplace := hI.pumpPlace
  rw [hreserved] at hplace
  cases hplace

/-- The micro-operation PH names answers. -/
theorem Inv.exec_phase_answers (hI : Inv s) (hph : encode i = .phase s.ph) : Answers (exec i s) := by
  have hlayer := layer_of_encode_phase hph
  have hplace := hI.pumpPlace
  cases i with
  | idle | waitpre | waitsub | blank | setstop | halt => exact answers_next _
  | next => exact ⟨_, execNext_eq s⟩
  | bringup =>
    rw [← Code.phase.inj hph, pumpPlaceOk_bringup_iff] at hplace
    exact execBringup_answers hplace.1
  | park => exact execPark_answers (PumpSends.park.stands hph hplace)
  | txplane => exact execTxplane_answers hI.planes (PumpSends.txplane.stands hph hplace)
  | cadj1 => exact sendThenGoto_answers (PumpSends.cadj1.stands hph hplace) ..
  | resume => exact sendThenGoto_answers (PumpSends.resume.stands hph hplace) ..
  | cadj2 => exact sendThenGoto_answers (PumpSends.cadj2.stands hph hplace) ..
  | maint =>
    rw [← Code.phase.inj hph, pumpPlaceOk_maint_iff] at hplace
    exact execMaint_answers hI.cfgOk hI.planes (hplace.1.imp_right And.left)
  | txfinal => exact execTxfinal_answers hI.planes (PumpSends.txfinal.stands hph hplace)
  | _ => cases hlayer

/-! ### Turns answer -/

/-- What a turn comes to has an answer. -/
def Fetched.Answers : Fetched → Prop
  | .run i t => Machine.Answers (exec i t)
  | .quiet _ => True
  | .reserved => False

theorem step_answers (h : (fetch s.takeTurn).Answers) : Answers (step s) := by
  unfold step
  cases hf : fetch s.takeTurn with
  | run i t => rw [hf] at h; exact h
  | quiet t => exact answers_next t
  | reserved => rw [hf] at h; exact h.elim

/-- A pending frame's bus primitive answers (R191, R192). -/
theorem exec_decodeFrame_answers (f : Frame) (s : State) : Answers (exec (decodeFrame f) s) :=
  ⟨_, exec_decodeFrame f s⟩

/-- HOST's turn: a frame, the operation in flight, one just taken at the port, or none. -/
theorem Inv.fetchHost_answers (hI : Inv s) : (fetchHost s).Answers := by
  rcases fetchHost_cases s with ⟨f, rest, _, e⟩ | ⟨_, i, hop, e⟩ | ⟨hfs, hop, i, rest, hd, e⟩ | ⟨_, _, _, _, _, e⟩ |
      ⟨_, _, _, e⟩ <;> rw [e]
  · exact exec_decodeFrame_answers f _
  · exact hI.exec_hop_answers hop
  · obtain ⟨hlayer, hwf⟩ := decodeHost_ok hd
    exact (hI.accept hop hfs hlayer hwf rest).exec_hop_answers rfl
  · trivial
  · trivial

/-- PUMP's turn: a frame, or the micro-operation PH names; PH is never reserved (R176). -/
theorem Inv.fetchPump_answers (hI : Inv s) : (fetchPump s).Answers := by
  rcases fetchPump_cases s with ⟨f, rest, _, e⟩ | ⟨_, i, hp, e⟩ | ⟨_, hnone, _⟩
  · rw [e]
    exact exec_decodeFrame_answers f _
  · rw [e]
    exact hI.exec_phase_answers (encode_of_decodePhase hp)
  · exact absurd hnone hI.phase_decodes

theorem Inv.fetch_answers (hI : Inv s) : (fetch s).Answers := by
  unfold fetch
  split
  · exact hI.fetchHost_answers
  · exact hI.fetchPump_answers
  · trivial

/-- Settles O54: the turn is taken, which the invariant does not see, and what any agent's turn fetches answers. -/
theorem noStepFromInvariantStops : Obligations.NoStepFromInvariantStops :=
  fun _ hI => step_answers hI.takeTurn.fetch_answers

end Answers
end Sys2Proof.Machine
end

section
/-! Two hazards that the machine must exhibit: a contrast request wiped by the clear of the one before it (R262), and a SHOW
over an unserved request that responds with its pixel not shown (R261, R264). -/

namespace Sys2Proof.Machine

section Hazards
variable {s u : State} {i : Instr} {ws rest : List HWord} {g : Grain} {k n : Nat} {ts : List Turn} {lvl : Byte}
  {m : Memory} {x y j : Nat} {v : Byte}

/-! ### Turns of the host -/

/-- A scheduled turn of HOST at the idle port takes the operation whose words stand there and runs it (R91). -/
theorem run_host_takes (hwf : i.wf = true) (he : encode i = .host ws) (hin : s.hostIn = ws ++ rest)
    (hop : s.hop = none) (hfs : s.hostTx = []) (hsched : s.sched = .host g k :: ts)
    (hexec : exec i ((s.turnTo (.host g k) ts).accept i rest) = .next u) :
    Host.Core.run core (n + 1) s = Host.Core.run core n u := by
  obtain ⟨htakes, _⟩ := turnRunsItsOperation
  exact run_succ (M := core) ((htakes s g k ts i ws rest hwf he hin hsched hfs hop).trans hexec)

/-- A scheduled turn of HOST with an operation in flight goes on with it (R38). -/
theorem run_host_goesOn (hop : s.hop = some i) (hfs : s.hostTx = []) (hsched : s.sched = .host g k :: ts)
    (hexec : exec i (s.turnTo (.host g k) ts) = .next u) :
    Host.Core.run core (n + 1) s = Host.Core.run core n u := by
  obtain ⟨_, hgoesOn, _⟩ := turnRunsItsOperation
  exact run_succ (M := core) ((hgoesOn s g k ts i hsched hfs hop).trans hexec)

/-! ### The waits of SHOW and CONTRASTS -/

theorem execShowSync_waits (h : AtIssue s) (hrun : s.runState = .running) :
    exec .showSync s = .next (s.setCopy.hostAt .poll) :=
  (execShowSync_atOnce h).trans (congrArg Host.Outcome.next (testRunning_running (s := s.setCopy) hrun))

theorem execShowSync_served (here : s.hph = .poll) (hfree : s.copyPending = false) :
    exec .showSync s = .next (s.respond .done) := by
  rw [execShowSync_poll here, hfree]
  rfl

theorem execContrastSync_waits (h : AtIssue s) (hrun : s.runState = .running) :
    exec (.contrastSync lvl) s = .next ((s.setCreq lvl).hostAt .poll) :=
  (execContrastSync_atOnce h).trans (congrArg Host.Outcome.next (testRunning_running (s := s.setCreq lvl) hrun))

theorem execContrastSync_served (here : s.hph = .poll) (hfree : s.creq = none) :
    exec (.contrastSync lvl) s = .next (s.respond .done) := by
  rw [execContrastSync_poll here, hfree]
  rfl

/-! ### A contrast request lost (R262) -/

/-- Settles O49: CONTRASTS writes its level over the one MAINT has read and waits, MAINT recomputes CADJ for the level it
has read and clears the cell whatever it holds, and CONTRASTS takes the empty cell for its request served. -/
theorem contrastRequestCanBeLost : Obligations.ContrastRequestCanBeLost := by
  intro s l1 l2 c ts hph here _ hc hpump hrunning hop hhost hin hsched
  have hmaint : encode .maint = .phase s.ph := congrArg Code.phase hph.symm
  refine ⟨{ s with
    cadj := c, creq := none, hop := none, hph := .issue, responses := s.responses ++ [.done], hostIn := []
    ph := Ph.waitsub, pph := .start, turn := .host .atOnce 0, sched := ts }, ?_, rfl, rfl, rfl, rfl⟩
  calc Host.Core.run core 4 s
    _ = Host.Core.run core 3 { s with
          creq := some l2, hop := some (.contrastSync l2), hph := .poll, hostIn := [], turn := .host .atOnce 0
          sched := .pump .stepwise 0 :: .pump .stepwise 0 :: .host .atOnce 0 :: ts } :=
        run_host_takes rfl rfl hin hop hhost hsched (execContrastSync_waits ⟨rfl, rfl⟩ hrunning)
    _ = Host.Core.run core 2 { s with
          cadj := c, creq := some l2, hop := some (.contrastSync l2), hph := .poll, hostIn := [], pph := .clearCreq
          turn := .pump .stepwise 0, sched := .pump .stepwise 0 :: .host .atOnce 0 :: ts } :=
        run_pump hmaint hpump rfl (execMaint_recomputes here hc)
    _ = Host.Core.run core 1 { s with
          cadj := c, creq := none, hop := some (.contrastSync l2), hph := .poll, hostIn := [], ph := Ph.waitsub
          pph := .start, turn := .pump .stepwise 0, sched := .host .atOnce 0 :: ts } :=
        run_pump hmaint hpump rfl (execMaint_clearsCreq rfl)
    _ = _ := run_host_goesOn (n := 0) rfl hhost rfl (execContrastSync_served rfl rfl)

/-! ### The last index of a COMPOSE (R131) -/

/-- An index with no byte read: the turn reads its byte of LA first. -/
theorem execMaint_readsA (here : s.pph = .compose [{ idx := j, a := none, b := none }]) (hpick : turnPick s.turn = 0)
    (hs : s.planesOk = true) :
    exec .maint s = .next (s.pumpAt (.compose [{ idx := j, a := some (s.la.byteAt j), b := none }])) := by
  simp [exec, execMaint, here, State.composeStep, hpick, hs, ComposeItem.readOne, oweCompose_of_ne]

/-- The last index owed, with its byte of LA read: the turn reads its byte of LB and puts the derived bytes. -/
theorem execMaint_readsB {a : Byte} (here : s.pph = .compose [{ idx := j, a := some a, b := none }])
    (hs : s.planesOk = true) :
    exec .maint s = .next ((s.putDerived j a (s.lb.byteAt j)).pumpAt .clearCopy) := by
  simp [exec, execMaint, here, State.composeStep, Nat.mod_one, hs, ComposeItem.readOne, oweCompose_nil]

theorem execMaint_clearsCopy (here : s.pph = .clearCopy) : exec .maint s = .next (s.clearCopy.goto Ph.waitsub) := by
  simp only [exec, execMaint, here]

/-! ### A pixel not shown (R261, R264) -/

/-- A pixel whose byte is 0 is off, and stays off when another byte is written (R61). -/
theorem Memory.pixel_write_of_blank (hblank : m.byteAt (pixelIndex x y) = 0#8) (hj : j ≠ pixelIndex x y) :
    (m.write j v).pixel x y = false := by
  simp [Memory.pixel, Memory.byteAt_write_other m v hj, hblank]

/-- SHOW issued while MAINT has the last index of a COMPOSE left: it asks for a copy that is already asked for and waits,
the COMPOSE puts that index and clears the request, and SHOW takes it for served. -/
theorem run_show_over_compose (hs : s.planesOk = true) (hph : s.ph = Ph.maint)
    (here : s.pph = .compose [{ idx := j, a := none, b := none }]) (hpump : s.pumpTx = [])
    (hrunning : s.runState = .running) (hop : s.hop = none) (hhost : s.hostTx = [])
    (hin : s.hostIn = [wordH0 3#4])
    (hsched : s.sched = .host .atOnce 0 :: .pump .stepwise 0 :: .pump .stepwise 0 :: .pump .stepwise 0
      :: .host .atOnce 0 :: ts) :
    Host.Core.run core 5 s = .next { s.putDerived j (s.la.byteAt j) (s.lb.byteAt j) with
      copyPending := false, hop := none, hph := .issue, responses := s.responses ++ [.done], hostIn := []
      ph := Ph.waitsub, pph := .start, turn := .host .atOnce 0, sched := ts } := by
  have hmaint : encode .maint = .phase s.ph := congrArg Code.phase hph.symm
  calc Host.Core.run core 5 s
    _ = Host.Core.run core 4 { s with
          copyPending := true, hop := some .showSync, hph := .poll, hostIn := [], turn := .host .atOnce 0
          sched := .pump .stepwise 0 :: .pump .stepwise 0 :: .pump .stepwise 0 :: .host .atOnce 0 :: ts } :=
        run_host_takes rfl rfl hin hop hhost hsched (execShowSync_waits ⟨rfl, rfl⟩ hrunning)
    _ = Host.Core.run core 3 { s with
          copyPending := true, hop := some .showSync, hph := .poll, hostIn := []
          pph := .compose [{ idx := j, a := some (s.la.byteAt j), b := none }]
          turn := .pump .stepwise 0, sched := .pump .stepwise 0 :: .pump .stepwise 0 :: .host .atOnce 0 :: ts } :=
        run_pump hmaint hpump rfl (execMaint_readsA here rfl hs)
    _ = Host.Core.run core 2 { s.putDerived j (s.la.byteAt j) (s.lb.byteAt j) with
          copyPending := true, hop := some .showSync, hph := .poll, hostIn := [], pph := .clearCopy
          turn := .pump .stepwise 0, sched := .pump .stepwise 0 :: .host .atOnce 0 :: ts } :=
        run_pump hmaint hpump rfl (execMaint_readsB rfl hs)
    _ = Host.Core.run core 1 { s.putDerived j (s.la.byteAt j) (s.lb.byteAt j) with
          copyPending := false, hop := some .showSync, hph := .poll, hostIn := [], ph := Ph.waitsub, pph := .start
          turn := .pump .stepwise 0, sched := .host .atOnce 0 :: ts } :=
        run_pump hmaint hpump rfl (execMaint_clearsCopy rfl)
    _ = _ := run_host_goesOn (n := 0) rfl hhost rfl (execShowSync_served rfl rfl)

/-- Settles O50: PIXEL writes the logical planes when its byte is already composed, and what SHOW waits for is the end of
that COMPOSE, which puts another byte of the derived planes. -/
theorem showCanMissAPixel : Obligations.ShowCanMissAPixel := by
  intro s ts hs hph here _ hpump h0 h1 h2 hrunning hop hhost hin hsched
  have hplots : Host.Core.run core 6 s = Host.Core.run core 5 { s.plotPixel 0 0 3#2 with
      hop := none, hph := .issue, responses := s.responses ++ [.done], hostIn := [0x30000000#32]
      turn := .host .atOnce 0
      sched := .host .atOnce 0 :: .pump .stepwise 0 :: .pump .stepwise 0 :: .pump .stepwise 0
        :: .host .atOnce 0 :: ts } :=
    run_host_takes (i := .pixel 0#12 0#12 3#2) rfl rfl hin hop hhost hsched
      (execPixel_atOnce ⟨rfl, rfl⟩ hs (by decide))
  have hrun := hplots.trans
    (run_show_over_compose (planesOk_plotPixel 0 0 3#2 hs) hph here hpump hrunning rfl hhost rfl rfl)
  refine ⟨_, hrun, List.append_assoc _ _ _, rfl, rfl, shade_plotPixel_same 3#2 hs (by decide), ?_, ?_, ?_⟩
  · exact Memory.pixel_write_of_blank h0 (by decide)
  · exact Memory.pixel_write_of_blank h1 (by decide)
  · exact Memory.pixel_write_of_blank h2 (by decide)

end Hazards
end Sys2Proof.Machine
end
